-- ==== Sys2Proof/Word.lean ====
section
/-! DEFINITION. The word types of the core: 8-bit bytes and 16-bit words (spec 00_scope.md R13, R14). -/

namespace Sys2Proof

/-- An 8-bit value: a general register, a memory byte, an immediate `kk` (R21, R29, R91). -/
abbrev Byte := BitVec 8

/-- A 16-bit value: an instruction word, `PC`, the storage of `I`, a stack entry (R24, R25, R26, R90). -/
abbrev Word := BitVec 16

/-- A 12-bit address immediate `nnn`, and a configured offset (R8, R91). -/
abbrev Addr12 := BitVec 12

/-- The index of a general register, the value of a 4-bit field `x` or `y` (R21, R91). -/
abbrev Reg := Fin 16

end Sys2Proof
end

