-- ==== Sys2Proof/Machine/Flags.lean ====
section
/-! DEFINITION. Every flag computation the spec gives: what is written to `VF` (spec 10_state.md R37). -/

namespace Sys2Proof.Machine

/-- A flag value: 1 or 0 (R37). -/
def flagByte (b : Bool) : Byte := if b then 1 else 0

/-- The flag of OR, AND and XOR: always 0 (R174 to R176). -/
def logicFlag : Byte := flagByte false

/-- The carry of `8xy4`: 1 iff the exact sum is above 255 (R177). -/
def carryFlag (a b : Byte) : Byte := flagByte (decide (255 < a.toNat + b.toNat))

/-- The flag of SUB and SUBN: 1 iff `a > b`, strictly (R170, R178, R179; C4). -/
def greaterFlag (a b : Byte) : Byte := flagByte (decide (b.toNat < a.toNat))

/-- The flag of SHR: bit 0 of the operand before the shift (R180). -/
def lowBitFlag (src : Byte) : Byte := flagByte (src.getLsbD 0)

/-- The flag of SHL: bit 7 of the operand before the shift (R181). -/
def highBitFlag (src : Byte) : Byte := flagByte (src.getLsbD 7)

/-- The flag of `Fx1E`: 1 iff the exact sum is above 0xFFF (R261). -/
def indexFlag (i : Word) (b : Byte) : Byte := flagByte (decide (0xFFF < i.toNat + b.toNat))

/-- The flag of DRW: the collision (R206). -/
def collisionFlag (collided : Bool) : Byte := flagByte collided

end Sys2Proof.Machine
end

