-- ==== Sys2Proof/Syntax.lean ====
section
/-! DEFINITION. The 34 instructions (spec 30_encoding.md R93), one constructor per row of spec/opcode_table.json, in the
table's order. A field's type is exactly the field's width (R91), so no term holds an operand the encoding cannot. -/

namespace Sys2Proof

/-- The instructions. `x` and `y` are register indices, `kk` an 8-bit, `n` a 4-bit and `nnn` a 12-bit immediate (R91). -/
inductive Instr where
  /-- `00E0` CLS, R205. -/
  | cls
  /-- `00EE` RET, R142. -/
  | ret
  /-- `1nnn` JP nnn, R143. -/
  | jp (nnn : Addr12)
  /-- `2nnn` CALL nnn, R144. -/
  | call (nnn : Addr12)
  /-- `3xkk` SE Vx, kk, R145. -/
  | seK (x : Reg) (kk : Byte)
  /-- `4xkk` SNE Vx, kk, R146. -/
  | sneK (x : Reg) (kk : Byte)
  /-- `5xy0` SE Vx, Vy, R147. -/
  | seR (x y : Reg)
  /-- `9xy0` SNE Vx, Vy, R148. -/
  | sneR (x y : Reg)
  /-- `6xkk` LD Vx, kk, R171. -/
  | ldK (x : Reg) (kk : Byte)
  /-- `8xy0` LD Vx, Vy, R172. -/
  | ldR (x y : Reg)
  /-- `7xkk` ADD Vx, kk, R173. -/
  | addK (x : Reg) (kk : Byte)
  /-- `8xy1` OR Vx, Vy, R174. -/
  | orR (x y : Reg)
  /-- `8xy2` AND Vx, Vy, R175. -/
  | andR (x y : Reg)
  /-- `8xy3` XOR Vx, Vy, R176. -/
  | xorR (x y : Reg)
  /-- `8xy4` ADD Vx, Vy, R177. -/
  | addR (x y : Reg)
  /-- `8xy5` SUB Vx, Vy, R178. -/
  | subR (x y : Reg)
  /-- `8xy7` SUBN Vx, Vy, R179. -/
  | subnR (x y : Reg)
  /-- `8xy6` SHR Vx, Vy, R180. -/
  | shrR (x y : Reg)
  /-- `8xyE` SHL Vx, Vy, R181. -/
  | shlR (x y : Reg)
  /-- `Bnnn` JP V0, nnn, R149. -/
  | jpV0 (nnn : Addr12)
  /-- `Cxkk` RND Vx, kk, R182. -/
  | rnd (x : Reg) (kk : Byte)
  /-- `Dxyn` DRW Vx, Vy, n, R206. -/
  | drw (x y : Reg) (n : BitVec 4)
  /-- `Ex9E` SKP Vx, R231. -/
  | skp (x : Reg)
  /-- `ExA1` SKNP Vx, R232. -/
  | sknp (x : Reg)
  /-- `Fx07` LD Vx, DT, R233. -/
  | ldVxDt (x : Reg)
  /-- `Fx0A` LD Vx, K, R234. -/
  | ldVxK (x : Reg)
  /-- `Fx15` LD DT, Vx, R235. -/
  | ldDtVx (x : Reg)
  /-- `Fx18` LD ST, Vx, R236. -/
  | ldStVx (x : Reg)
  /-- `Annn` LD I, nnn, R260. -/
  | ldI (nnn : Addr12)
  /-- `Fx1E` ADD I, Vx, R261. -/
  | addI (x : Reg)
  /-- `Fx29` LD F, Vx, R262. -/
  | ldF (x : Reg)
  /-- `Fx33` LD B, Vx, R263. -/
  | ldB (x : Reg)
  /-- `Fx55` LD [I], Vx, R264. -/
  | ldMemVx (x : Reg)
  /-- `Fx65` LD Vx, [I], R265. -/
  | ldVxMem (x : Reg)
  deriving DecidableEq, Repr

end Sys2Proof
end

