-- ==== Sys2Proof/Decode.lean ====
section
/-! DEFINITION. Decoding and encoding (spec 30_encoding.md R91 to R95): the fields of a word, the total decoder of R94,
the encoder written from the layouts of R92 and R93, and the opcode table as rows of match and mask. -/

namespace Sys2Proof

/-- `op` = `w[15:12]`, as a number (R91). -/
def fieldOp (w : Word) : Nat := (w.extractLsb' 12 4).toNat
/-- `x` = `w[11:8]` (R91). -/
def fieldX (w : Word) : Reg := (w.extractLsb' 8 4).toFin
/-- `y` = `w[7:4]` (R91). -/
def fieldY (w : Word) : Reg := (w.extractLsb' 4 4).toFin
/-- `n` = `w[3:0]` (R91). -/
def fieldN (w : Word) : BitVec 4 := w.extractLsb' 0 4
/-- `kk` = `w[7:0]` (R91). -/
def fieldKK (w : Word) : Byte := w.extractLsb' 0 8
/-- `nnn` = `w[11:0]` (R91). -/
def fieldNNN (w : Word) : Addr12 := w.extractLsb' 0 12

/-- What the decoder answers (R94): an instruction with its fields, or the rejection `UNKNOWN_OPCODE` of the word. -/
inductive Decoded where
  | instr (i : Instr)
  | unknownOpcode (w : Word)
  deriving DecidableEq, Repr

/-- The words with top nibble 0: `00E0` and `00EE` and no other (R94). -/
def decodeZero (w : Word) : Decoded :=
  if w = 0x00E0 then .instr .cls else if w = 0x00EE then .instr .ret else .unknownOpcode w

/-- The words with top nibble 8, selected by the low nibble (R94). -/
def decodeEight (w : Word) : Decoded :=
  match (fieldN w).toNat with
  | 0x0 => .instr (.ldR (fieldX w) (fieldY w))
  | 0x1 => .instr (.orR (fieldX w) (fieldY w))
  | 0x2 => .instr (.andR (fieldX w) (fieldY w))
  | 0x3 => .instr (.xorR (fieldX w) (fieldY w))
  | 0x4 => .instr (.addR (fieldX w) (fieldY w))
  | 0x5 => .instr (.subR (fieldX w) (fieldY w))
  | 0x6 => .instr (.shrR (fieldX w) (fieldY w))
  | 0x7 => .instr (.subnR (fieldX w) (fieldY w))
  | 0xE => .instr (.shlR (fieldX w) (fieldY w))
  | _ => .unknownOpcode w

/-- The words with top nibble E, selected by the low byte (R94). -/
def decodeE (w : Word) : Decoded :=
  match (fieldKK w).toNat with
  | 0x9E => .instr (.skp (fieldX w))
  | 0xA1 => .instr (.sknp (fieldX w))
  | _ => .unknownOpcode w

/-- The words with top nibble F, selected by the low byte (R94). -/
def decodeF (w : Word) : Decoded :=
  match (fieldKK w).toNat with
  | 0x07 => .instr (.ldVxDt (fieldX w))
  | 0x0A => .instr (.ldVxK (fieldX w))
  | 0x15 => .instr (.ldDtVx (fieldX w))
  | 0x18 => .instr (.ldStVx (fieldX w))
  | 0x1E => .instr (.addI (fieldX w))
  | 0x29 => .instr (.ldF (fieldX w))
  | 0x33 => .instr (.ldB (fieldX w))
  | 0x55 => .instr (.ldMemVx (fieldX w))
  | 0x65 => .instr (.ldVxMem (fieldX w))
  | _ => .unknownOpcode w

/-- Decode (R94), total on all 65536 words; every fixed nibble is checked. The last arm is top nibble 0xF. -/
def decode (w : Word) : Decoded :=
  match fieldOp w with
  | 0x0 => decodeZero w
  | 0x1 => .instr (.jp (fieldNNN w))
  | 0x2 => .instr (.call (fieldNNN w))
  | 0x3 => .instr (.seK (fieldX w) (fieldKK w))
  | 0x4 => .instr (.sneK (fieldX w) (fieldKK w))
  | 0x5 => if fieldN w = 0 then .instr (.seR (fieldX w) (fieldY w)) else .unknownOpcode w
  | 0x6 => .instr (.ldK (fieldX w) (fieldKK w))
  | 0x7 => .instr (.addK (fieldX w) (fieldKK w))
  | 0x8 => decodeEight w
  | 0x9 => if fieldN w = 0 then .instr (.sneR (fieldX w) (fieldY w)) else .unknownOpcode w
  | 0xA => .instr (.ldI (fieldNNN w))
  | 0xB => .instr (.jpV0 (fieldNNN w))
  | 0xC => .instr (.rnd (fieldX w) (fieldKK w))
  | 0xD => .instr (.drw (fieldX w) (fieldY w) (fieldN w))
  | 0xE => decodeE w
  | _ => decodeF w

/-- The instruction word whose first byte is `hi` and second byte is `lo`: big-endian (R62, R90). -/
def wordOfBytes (hi lo : Byte) : Word := hi ++ lo

/-- The first byte of a word in memory, `w[15:8]` (R62). -/
def highByte (w : Word) : Byte := w.extractLsb' 8 8
/-- The second byte of a word in memory, `w[7:0]` (R62). -/
def lowByte (w : Word) : Byte := w.extractLsb' 0 8

/-- The decoder on the two bytes of an instruction in memory, total on any bytes (R62, R94). -/
def decodeBytes (hi lo : Byte) : Decoded := decode (wordOfBytes hi lo)

/-- The instruction the decoder reads from the word numbered as spec/opcode_table.json numbers it.
Every row has 16 bits, the one word of the instruction, so `nbits` decides nothing. -/
def decodeTableWord (_nbits w : Nat) : Option Instr :=
  match decodeBytes (highByte (BitVec.ofNat 16 w)) (lowByte (BitVec.ofNat 16 w)) with
  | .instr i => some i
  | .unknownOpcode _ => none

/-! The layouts of R92. -/

/-- Form `A`: `oooo nnnn nnnn nnnn`. -/
def formA (op : BitVec 4) (nnn : Addr12) : Word := op ++ nnn
/-- Form `RK`, and form `R` with the subop byte in place of `kk`: `oooo xxxx kkkk kkkk`. -/
def formRK (op : BitVec 4) (x : Reg) (kk : Byte) : Word := op ++ BitVec.ofFin (w := 4) x ++ kk
/-- Form `RRN`, and form `RR` with the subop nibble in place of `n`: `oooo xxxx yyyy nnnn`. -/
def formRRN (op : BitVec 4) (x y : Reg) (n : BitVec 4) : Word :=
  op ++ BitVec.ofFin (w := 4) x ++ BitVec.ofFin (w := 4) y ++ n

/-- The word of an instruction, from the opcode map of R93. -/
def encode : Instr → Word
  | .cls => 0x00E0
  | .ret => 0x00EE
  | .jp nnn => formA 0x1 nnn
  | .call nnn => formA 0x2 nnn
  | .seK x kk => formRK 0x3 x kk
  | .sneK x kk => formRK 0x4 x kk
  | .seR x y => formRRN 0x5 x y 0x0
  | .sneR x y => formRRN 0x9 x y 0x0
  | .ldK x kk => formRK 0x6 x kk
  | .ldR x y => formRRN 0x8 x y 0x0
  | .addK x kk => formRK 0x7 x kk
  | .orR x y => formRRN 0x8 x y 0x1
  | .andR x y => formRRN 0x8 x y 0x2
  | .xorR x y => formRRN 0x8 x y 0x3
  | .addR x y => formRRN 0x8 x y 0x4
  | .subR x y => formRRN 0x8 x y 0x5
  | .subnR x y => formRRN 0x8 x y 0x7
  | .shrR x y => formRRN 0x8 x y 0x6
  | .shlR x y => formRRN 0x8 x y 0xE
  | .jpV0 nnn => formA 0xB nnn
  | .rnd x kk => formRK 0xC x kk
  | .drw x y n => formRRN 0xD x y n
  | .skp x => formRK 0xE x 0x9E
  | .sknp x => formRK 0xE x 0xA1
  | .ldVxDt x => formRK 0xF x 0x07
  | .ldVxK x => formRK 0xF x 0x0A
  | .ldDtVx x => formRK 0xF x 0x15
  | .ldStVx x => formRK 0xF x 0x18
  | .ldI nnn => formA 0xA nnn
  | .addI x => formRK 0xF x 0x1E
  | .ldF x => formRK 0xF x 0x29
  | .ldB x => formRK 0xF x 0x33
  | .ldMemVx x => formRK 0xF x 0x55
  | .ldVxMem x => formRK 0xF x 0x65

/-- A row of the opcode table: a word `w` is the row's when `w &&& mask = bits`. -/
structure OpcodeRow where
  bits : Word
  mask : Word
  deriving DecidableEq, Repr

/-- The row of spec/opcode_table.json an instruction stands for: its `match` and its `mask` (R93). -/
def opcodeRow : Instr → OpcodeRow
  | .cls => ⟨0x00E0, 0xFFFF⟩
  | .ret => ⟨0x00EE, 0xFFFF⟩
  | .jp _ => ⟨0x1000, 0xF000⟩
  | .call _ => ⟨0x2000, 0xF000⟩
  | .seK _ _ => ⟨0x3000, 0xF000⟩
  | .sneK _ _ => ⟨0x4000, 0xF000⟩
  | .seR _ _ => ⟨0x5000, 0xF00F⟩
  | .sneR _ _ => ⟨0x9000, 0xF00F⟩
  | .ldK _ _ => ⟨0x6000, 0xF000⟩
  | .ldR _ _ => ⟨0x8000, 0xF00F⟩
  | .addK _ _ => ⟨0x7000, 0xF000⟩
  | .orR _ _ => ⟨0x8001, 0xF00F⟩
  | .andR _ _ => ⟨0x8002, 0xF00F⟩
  | .xorR _ _ => ⟨0x8003, 0xF00F⟩
  | .addR _ _ => ⟨0x8004, 0xF00F⟩
  | .subR _ _ => ⟨0x8005, 0xF00F⟩
  | .subnR _ _ => ⟨0x8007, 0xF00F⟩
  | .shrR _ _ => ⟨0x8006, 0xF00F⟩
  | .shlR _ _ => ⟨0x800E, 0xF00F⟩
  | .jpV0 _ => ⟨0xB000, 0xF000⟩
  | .rnd _ _ => ⟨0xC000, 0xF000⟩
  | .drw _ _ _ => ⟨0xD000, 0xF000⟩
  | .skp _ => ⟨0xE09E, 0xF0FF⟩
  | .sknp _ => ⟨0xE0A1, 0xF0FF⟩
  | .ldVxDt _ => ⟨0xF007, 0xF0FF⟩
  | .ldVxK _ => ⟨0xF00A, 0xF0FF⟩
  | .ldDtVx _ => ⟨0xF015, 0xF0FF⟩
  | .ldStVx _ => ⟨0xF018, 0xF0FF⟩
  | .ldI _ => ⟨0xA000, 0xF000⟩
  | .addI _ => ⟨0xF01E, 0xF0FF⟩
  | .ldF _ => ⟨0xF029, 0xF0FF⟩
  | .ldB _ => ⟨0xF033, 0xF0FF⟩
  | .ldMemVx _ => ⟨0xF055, 0xF0FF⟩
  | .ldVxMem _ => ⟨0xF065, 0xF0FF⟩

end Sys2Proof
end

