-- ==== Sys2Proof/Config.lean ====
section
/-! DEFINITION. The configuration the core is initialized with (spec 00_scope.md R8 to R11, 10_state.md R36), its default
values, and the free values of the two data inputs `keys_in` and `rand_in` (44_keys_timers.md R230, 42_alu.md R182). -/

namespace Sys2Proof

/-- `DT_READ_ROUNDING`: how the delay readback rounds the remaining time (R10, R314). -/
inductive Rounding where
  | ceil
  | floor
  deriving DecidableEq, Repr

/-- The configuration registers of R36. They are loaded at initialization and no step changes them. -/
structure Configuration where
  /-- `LOAD_OFFSET`, where the ROM is loaded and where execution starts (R8, R352). -/
  loadOffset : Addr12
  /-- `FONT_OFFSET`, where the 80 font bytes are loaded (R8, R350). -/
  fontOffset : Addr12
  /-- `CPU_DIV`, master cycles per instruction tick (R9, R309). -/
  cpuDiv : Nat
  /-- `TIMER_DIV`, master cycles per countdown tick (R9, R310). -/
  timerDiv : Nat
  /-- `REFRESH_K`, executed cycles per present request (R8, R204). -/
  refreshK : Nat
  /-- `LEGACY_SHIFT`: the shift operand is Vy when set and Vx otherwise (R180, R181). -/
  legacyShift : Bool
  /-- `LAZY_RENDER`: present after every CLS and DRW instead of every `REFRESH_K` cycles (R203, R204). -/
  lazyRender : Bool
  /-- `DT_READ_ROUNDING` (R10). -/
  dtReadRounding : Rounding
  /-- `FONT_DATA`, 16 glyphs of 5 bytes (R11, R41). -/
  fontData : Vector Byte 80
  deriving DecidableEq, Repr

/-- The default `FONT_DATA`: the table of R41, one glyph a line, digits 0 to F. -/
def Config.fontTable : Vector Byte 80 := #v[
  0xF0, 0x90, 0x90, 0x90, 0xF0,
  0x20, 0x60, 0x20, 0x20, 0x70,
  0xF0, 0x10, 0xF0, 0x80, 0xF0,
  0xF0, 0x10, 0xF0, 0x10, 0xF0,
  0x90, 0x90, 0xF0, 0x10, 0x10,
  0xF0, 0x80, 0xF0, 0x10, 0xF0,
  0xF0, 0x80, 0xF0, 0x90, 0xF0,
  0xF0, 0x10, 0x20, 0x40, 0x40,
  0xF0, 0x90, 0xF0, 0x90, 0xF0,
  0xF0, 0x90, 0xF0, 0x10, 0xF0,
  0xF0, 0x90, 0xF0, 0x90, 0x90,
  0xE0, 0x90, 0xE0, 0x90, 0xE0,
  0xF0, 0x80, 0x80, 0x80, 0xF0,
  0xE0, 0x90, 0x90, 0x90, 0xE0,
  0xF0, 0x80, 0xF0, 0x80, 0xF0,
  0xF0, 0x80, 0xF0, 0x80, 0x80]

/-- The configuration `State.reset` is initialized with.
`LOAD_OFFSET`, `DT_READ_ROUNDING` and `FONT_DATA` have the spec's own defaults (R8, R10, R11; log 2, DEDUCED).
The other six are OPEN in the spec and take the values of its examples (95_test_vectors.md; log 1, DESIGN CHOICE).
Nothing else in the model reads these values: every meaning reads the field `cfg` of the state it is given. -/
def Config.default : Configuration where
  loadOffset := 0x200
  fontOffset := 0x050
  cpuDiv := 1
  timerDiv := 10
  refreshK := 1
  legacyShift := false
  lazyRender := false
  dtReadRounding := .ceil
  fontData := Config.fontTable

/-- FREE VALUE. What `keys_in` shows at the n-th sample the environment has not scripted (R230; log 6). -/
opaque Config.keysIn : Nat → BitVec 16

/-- FREE VALUE. What `rand_in` shows at the n-th sample the environment has not scripted (R182; log 7). -/
opaque Config.randIn : Nat → Byte

end Sys2Proof
end

