-- ==== Sys2Proof/Machine/Framebuffer.lean ====
section
/-! DEFINITION. The display framebuffer with its sprite blit and collision detector (spec 10_state.md R30,
43_display.md R200 to R202, R207). -/

namespace Sys2Proof.Machine

/-- `FB[c][r]`: 64 columns of 32 one-bit pixels; `true` is on (R30). -/
abbrev Framebuffer := Vector (Vector Bool 32) 64

/-- Every pixel off: the reset value (R40) and the effect of `Clear()` (R202). -/
def Framebuffer.blank : Framebuffer := Vector.replicate 64 (Vector.replicate 32 false)

/-- The pixel at column `c` and row `r` (R30, R207). -/
def Framebuffer.pixel (fb : Framebuffer) (c : Fin 64) (r : Fin 32) : Bool := (fb[c])[r]

/-- Write the pixel at column `c` and row `r`. -/
def Framebuffer.setPixel (fb : Framebuffer) (c : Fin 64) (r : Fin 32) (b : Bool) : Framebuffer :=
  fb.set c ((fb[c]).set r b)

/-- A column number wrapped: `c mod 64` (R200). -/
def wrapColumn (c : Nat) : Fin 64 := ⟨c % 64, Nat.mod_lt c (by decide)⟩

/-- A row number wrapped: `r mod 32` (R200). -/
def wrapRow (r : Nat) : Fin 32 := ⟨r % 32, Nat.mod_lt r (by decide)⟩

/-- Column `j` of a sprite byte is its bit `7 − j` (R200). -/
def spriteBit (byte : Byte) (j : Nat) : Bool := byte.getLsbD (7 - j)

/-- One pixel of the blit: XOR the sprite bit in, and set the collision when the pixel goes from on to off (R200, R201). -/
def blitPixel (c : Fin 64) (r : Fin 32) (b : Bool) (acc : Framebuffer × Bool) : Framebuffer × Bool :=
  (acc.1.setPixel c r (acc.1.pixel c r ^^ b), acc.2 || (acc.1.pixel c r && b))

/-- One row of the blit: the 8 columns of a sprite byte, from column `cx` on, wrapping mod 64 (R200). -/
def blitRow (cx : Nat) (r : Fin 32) (byte : Byte) (acc : Framebuffer × Bool) : Framebuffer × Bool :=
  (List.range 8).foldl (fun a j => blitPixel (wrapColumn (cx + j)) r (spriteBit byte j) a) acc

/-- The rows of the blit, from row `cy` on, wrapping mod 32 (R200). -/
def blitRows (cx : Nat) : Nat → List Byte → Framebuffer × Bool → Framebuffer × Bool
  | _, [], acc => acc
  | cy, byte :: bytes, acc => blitRows cx (cy + 1) bytes (blitRow cx (wrapRow cy) byte acc)

/-- `SpriteBlit(cx, cy, bytes)`: the framebuffer after the blit, and whether a pixel went from on to off (R200, R201). -/
def spriteBlit (fb : Framebuffer) (cx cy : Nat) (bytes : List Byte) : Framebuffer × Bool :=
  blitRows cx cy bytes (fb, false)

end Sys2Proof.Machine
end

