-- ==== Sys2Proof/Machine/Memory.lean ====
section
/-! DEFINITION. The memory block (spec 20_memory.md R60, R61, R66): bytes by address in one canonical form, and the
reads and writes of bytes. The bound of R61 is checked by the operations of Machine/Ops.lean before they come here. -/

namespace Sys2Proof.Machine

/-- Memory: the bytes that are not 0, by address. An unlisted address reads as 0 (R67; log 14). -/
abbrev Memory := List Host.Cell

/-- `MEM_SIZE`: the addresses are 0x000 to 0xFFF (R6, R60). -/
abbrev memSize : Nat := 4096

/-- What an address that is not listed reads as: memory is zeroed at initialization (R67, R350). -/
def unlistedByte : Byte := 0

/-- The canonical form: addresses strictly rising and inside the memory, no entry equal to an unlisted byte. -/
abbrev Memory.wf (m : Memory) : Prop :=
  m.Pairwise (fun c d => c.1 < d.1) ∧ ∀ c ∈ m, c.2 ≠ unlistedByte ∧ c.1 < memSize

/-- The byte at an address (R61). -/
def Memory.read : Memory → Nat → Byte
  | [], _ => unlistedByte
  | (b, v) :: m, a => if b = a then v else Memory.read m a

/-- Store a byte at an address (R61), keeping the canonical form. -/
def Memory.write : Memory → Nat → Byte → Memory
  | [], a, v => if v = unlistedByte then [] else [(a, v)]
  | (b, u) :: m, a, v =>
    if a < b then (if v = unlistedByte then (b, u) :: m else (a, v) :: (b, u) :: m)
    else if a = b then (if v = unlistedByte then m else (a, v) :: m)
    else (b, u) :: Memory.write m a v

/-- The `n` bytes from `a` on, lowest address first. -/
def Memory.readBytes (m : Memory) (a : Nat) : Nat → List Byte
  | 0 => []
  | n + 1 => m.read a :: Memory.readBytes m (a + 1) n

/-- Store bytes from `a` on, lowest address first. -/
def Memory.writeBytes (m : Memory) (a : Nat) : List Byte → Memory
  | [] => m
  | b :: bs => Memory.writeBytes (m.write a b) (a + 1) bs

/-- The `n` bytes from `a` on all lie inside the memory; no bytes always do (R61, R65, R206). -/
abbrev spanInBounds (a n : Nat) : Prop := n = 0 ∨ a + n ≤ memSize

end Sys2Proof.Machine
end

