-- ==== Sys2Proof/WellFormed.lean ====
section
/-! DEFINITION. What is well formed: the checks initialization makes on the configuration and the ROM
(spec 70_reset_and_hazards.md R351). An instruction needs no check: the types of its fields admit exactly the values
its encoding admits (30_encoding.md R91, R92), so every term of `Instr` is an instruction. -/

namespace Sys2Proof

/-- The ROM lies inside memory: not (`LOAD_OFFSET + len > 4096`) (R351). -/
def Configuration.romFits (cfg : Configuration) (len : Nat) : Bool :=
  decide (cfg.loadOffset.toNat + len ≤ 4096)

/-- The font lies inside memory: not (`FONT_OFFSET + 80 > 4096`) (R351). -/
def Configuration.fontFits (cfg : Configuration) : Bool :=
  decide (cfg.fontOffset.toNat + 80 ≤ 4096)

/-- No address lies in both the ROM range and the font range (R351); an empty ROM range meets nothing. -/
def Configuration.romClearOfFont (cfg : Configuration) (len : Nat) : Bool :=
  decide (len = 0 ∨ cfg.loadOffset.toNat + len ≤ cfg.fontOffset.toNat ∨
    cfg.fontOffset.toNat + 80 ≤ cfg.loadOffset.toNat)

/-- `CPU_DIV`, `TIMER_DIV` and `REFRESH_K` are at least 1 (R351). -/
def Configuration.divisorsPositive (cfg : Configuration) : Bool :=
  decide (1 ≤ cfg.cpuDiv) && decide (1 ≤ cfg.timerDiv) && decide (1 ≤ cfg.refreshK)

/-- The checks of R351 on a configuration and the length of the ROM. -/
def Configuration.wellFormed (cfg : Configuration) (len : Nat) : Bool :=
  cfg.romFits len && cfg.fontFits && cfg.romClearOfFont len && cfg.divisorsPositive

/-- Every term of `Instr` is a well-formed instruction: a field holds any value of its width and no other (R91). -/
def Instr.wellFormed (_ : Instr) : Bool := true

end Sys2Proof
end

