-- ==== Sys2Proof/Machine/State.lean ====
section
/-! DEFINITION. The state of the core (spec 10_state.md R20 to R36), its initialization (70_reset_and_hazards.md R350,
R351) and reset values (10_state.md R40), and the outcomes of a step. -/

namespace Sys2Proof.Machine

/-- `run_state` (R34). -/
inductive RunState where
  /-- A CPU tick runs an instruction cycle. -/
  | running
  /-- A fatal error occurred (R301). -/
  | halted
  /-- The quit input was seen (R316). -/
  | stopped
  deriving DecidableEq, Repr

/-- The fault codes of R300 by name. -/
inductive FaultCode where
  | none
  | unknownOpcode
  | stackOverflow
  | stackUnderflow
  | memOob
  | pcMisaligned
  | pcOob
  | keyIndex
  deriving DecidableEq, Repr

/-- The input ports while the core runs (R42), as the environment drives them. The lists script the next samples of a
port, the next one first. Past its list, `keys_in` and `rand_in` show a free value, and `quit_in` shows 0 (log 6, 7, 8).
`draws` counts the samples of `keys_in` and `rand_in` taken so far. These are the model's own fields. -/
structure Inputs where
  keys : List (BitVec 16)
  rand : List Byte
  quit : List Bool
  draws : Nat
  deriving DecidableEq, Repr

/-- The state of the core: R20's list in R20's order, then the level of the `present_req` output and the inputs. -/
structure State where
  /-- `V[0..15]` (R21). -/
  v : Vector Byte 16
  /-- `I`, 16 bits of storage whose bits 15:12 stay 0 (R24). -/
  i : Word
  /-- `PC` (R25). -/
  pc : Word
  /-- `STACK[0..15]` (R26). -/
  stack : Vector Word 16
  /-- `SP`, the number of stack entries in use (R26). -/
  sp : Fin 17
  /-- `MEM[0..4095]` (R29). -/
  mem : Memory
  /-- `FB[0..63][0..31]` (R30). -/
  fb : Framebuffer
  /-- `DT` (R27). -/
  dt : Byte
  /-- `dt_phase` (R27). -/
  dtPhase : Nat
  /-- `ST` (R28). -/
  st : Byte
  /-- `st_phase` (R28). -/
  stPhase : Nat
  /-- `cpu_cnt` (R32). -/
  cpuCnt : Nat
  /-- `refresh_cnt` (R33). -/
  refreshCnt : Nat
  /-- `key_prev[0..15]`, bit k for key k (R31). -/
  keyPrev : BitVec 16
  /-- `run_state` (R34). -/
  runState : RunState
  /-- `fault_code` (R35). -/
  faultCode : FaultCode
  /-- `fault_pc` (R35). -/
  faultPc : Word
  /-- `fault_word`, none when its valid bit is 0 (R35; log 11). -/
  faultWord : Option Word
  /-- The configuration registers (R36). -/
  cfg : Configuration
  /-- `present_req` in the last master cycle (R43, R203, R204; log 9). -/
  presentReq : Bool
  /-- The input ports (R42; log 6, 7, 8). -/
  inputs : Inputs
  deriving DecidableEq, Repr

/-- The state right after initialization with a configuration and a ROM that R351 admits: steps 2 to 6 of R350, with
the reset values of R40. -/
def State.initial (cfg : Configuration) (rom : List Byte) : State where
  v := Vector.replicate 16 0
  i := 0
  pc := cfg.loadOffset.zeroExtend 16
  stack := Vector.replicate 16 0
  sp := 0
  mem := Memory.writeBytes (Memory.writeBytes [] cfg.loadOffset.toNat rom) cfg.fontOffset.toNat cfg.fontData.toList
  fb := Framebuffer.blank
  dt := 0
  dtPhase := 0
  st := 0
  stPhase := 0
  cpuCnt := 0
  refreshCnt := 0
  keyPrev := 0
  runState := .running
  faultCode := .none
  faultPc := 0
  faultWord := Option.none
  cfg := cfg
  presentReq := false
  inputs := ⟨[], [], [], 0⟩

/-- Initialization (R350, R351): none when a check of R351 fails, and then no core runs at all (log 15). -/
def State.initialize (cfg : Configuration) (rom : List Byte) : Option State :=
  if cfg.wellFormed rom.length then some (State.initial cfg rom) else Option.none

/-- The machine right after reset: initialized with the default configuration (log 1, 2) and no ROM bytes (log 3). -/
def State.reset : State := State.initial Config.default []

/-- Why a step would stop with a fault that has no next state. There is no such reason on this core: every fault of R300
has the entry R301 describes, so a faulting instruction takes a next state, the halted one (log 5, safe). -/
inductive Fault where
  deriving DecidableEq, Repr

/-- Why a step would be refused. -/
inductive Refusal where
  /-- Raised by an arm of `exec` whose instruction has no meaning yet; safe. No arm raises it: all 34 have a meaning. -/
  | notModelled (mnemonic : String)
  deriving DecidableEq, Repr

/-- What a meaning and a step answer. -/
abbrev Result := Host.Outcome State Fault Refusal

end Sys2Proof.Machine
end

