-- ==== Sys2Proof/Machine/Ops.lean ====
section
/-! DEFINITION. The named operations over the state that the meanings share: registers, program counter and stack
(spec 10_state.md R21 to R26, 41_control.md R140, R141), fault entry (60_exceptions.md R300, R301), memory accesses at `I`
(20_memory.md R61, R65), the framebuffer, key and random inputs (44_keys_timers.md R230, 42_alu.md R182), timers
(60_exceptions.md R310, R314), and the stages of a master cycle (R309 to R311, R316; 43_display.md R203, R204). -/

namespace Sys2Proof.Machine

/-! Registers. -/

/-- Read general register `x` (R21). -/
def State.reg (s : State) (x : Reg) : Byte := s.v[x]

/-- Write general register `x` (R21). -/
def State.setReg (s : State) (x : Reg) (b : Byte) : State := { s with v := s.v.set x b }

/-- The index of `VF`, the flag register (R15, R22). -/
abbrev flagReg : Reg := 15

/-- Write a result to `Vx` and then a flag to `VF`: the flag is written last (R123). -/
def State.setResultFlag (s : State) (x : Reg) (result flag : Byte) : State :=
  (s.setReg x result).setReg flagReg flag

/-- Write `I`, masked to 12 bits: `v & 0xFFF` is `v mod 4096` (R24). -/
def State.setI (s : State) (v : Nat) : State := { s with i := BitVec.ofNat 16 (v % 4096) }

/-- Write registers from `V[k]` on from a list of bytes (R265). -/
def setRegsFrom (v : Vector Byte 16) (k : Nat) : List Byte → Vector Byte 16
  | [] => v
  | b :: bs => setRegsFrom (v.setIfInBounds k b) (k + 1) bs

/-- The registers `V[0]` to `V[x]`, in order (R264). -/
def State.regsUpTo (s : State) (x : Reg) : List Byte := s.v.toList.take (x.val + 1)

/-! Program counter. -/

/-- `PC <- target` (R15). -/
def State.jump (s : State) (target : Word) : State := { s with pc := target }

/-- `SkipNext()` when `b` holds: `PC <- PC + 2`, not masked (R127). -/
def State.skipIf (s : State) (b : Bool) : State := { s with pc := if b then s.pc + 2 else s.pc }

/-- `PC <- PC - 2` when `b` holds: the instruction runs again at the next CPU tick (R234). -/
def State.rewindIf (s : State) (b : Bool) : State := { s with pc := if b then s.pc - 2 else s.pc }

/-- The fetch's `PC <- a + 2` (R120). -/
def State.advance (s : State) : State := { s with pc := s.pc + 2 }

/-! Fault entry. -/

/-- The 4-bit number of a fault code (R300). -/
def FaultCode.number : FaultCode → BitVec 4
  | .none => 0
  | .unknownOpcode => 1
  | .stackOverflow => 2
  | .stackUnderflow => 3
  | .memOob => 4
  | .pcMisaligned => 5
  | .pcOob => 6
  | .keyIndex => 7

/-- Fault entry (R301), the one operation every fault goes through: `PC` is the faulting address `a`, `run_state` is
HALTED and the fault record is latched; nothing else changes. -/
def State.halt (s : State) (code : FaultCode) (a : Word) (word : Option Word) : State :=
  { s with pc := a, runState := .halted, faultCode := code, faultPc := a, faultWord := word }

/-- A fault of the fetch: the address is `PC` and no word is valid (R121, R300). -/
def State.haltFetch (s : State) (code : FaultCode) : State := s.halt code s.pc none

/-- `raise` from decode or from an instruction whose word is `w`. `PC` is `a + 2` there, so the faulting address is
`a = PC − 2`, and `PC` is put back to it (R124, R300, R301; log 12). -/
def State.raise (s : State) (code : FaultCode) (w : Word) : State := s.halt code (s.pc - 2) (some w)

/-! The call stack. -/

/-- `Push(v)`: none when the stack is full, which is STACK_OVERFLOW (R140). -/
def State.push (s : State) (v : Word) : Option State :=
  if h : s.sp.val < 16 then some { s with stack := s.stack.set s.sp.val v, sp := ⟨s.sp.val + 1, by omega⟩ } else none

/-- `Pop()`: the value and the state after; none when the stack is empty, which is STACK_UNDERFLOW (R141). -/
def State.pop (s : State) : Option (Word × State) :=
  if h : 0 < s.sp.val then some (s.stack[s.sp.val - 1], { s with sp := ⟨s.sp.val - 1, by omega⟩ }) else none

/-! Memory at `I`. -/

/-- The byte of memory at an address (R61). -/
def State.memByte (s : State) (a : Nat) : Byte := s.mem.read a

/-- The `n` bytes at `I`; none when one of them is out of bounds, which is MEM_OOB, checked before any read (R61, R65). -/
def State.loadBytes (s : State) (n : Nat) : Option (List Byte) :=
  if spanInBounds s.i.toNat n then some (s.mem.readBytes s.i.toNat n) else none

/-- Store bytes at `I`; none when one of them is out of bounds, which is MEM_OOB, checked before any write (R61, R65). -/
def State.storeBytes (s : State) (bytes : List Byte) : Option State :=
  if spanInBounds s.i.toNat bytes.length then some { s with mem := s.mem.writeBytes s.i.toNat bytes } else none

/-! Framebuffer. -/

/-- Replace the framebuffer, as `Clear()` and `SpriteBlit` do (R200, R202). -/
def State.setFb (s : State) (fb : Framebuffer) : State := { s with fb := fb }

/-! Keys. -/

/-- The sample of `keys_in` a refresh takes now (R230; log 6). -/
def State.keysNow (s : State) : BitVec 16 := s.inputs.keys.headD (Config.keysIn s.inputs.draws)

/-- The lowest key pressed in a set of keys (R230). -/
def lowestKey (keys : BitVec 16) : Option Nat := (List.range 16).find? fun k => keys.getLsbD k

/-- `newkey` of a refresh made now: the lowest key pressed now and released at the last refresh (R230). -/
def State.newKey (s : State) : Option Nat := lowestKey (s.keysNow &&& ~~~s.keyPrev)

/-- The state after `KeyRefresh()`: the sample is taken and becomes `key_prev` (R230). -/
def State.keyRefresh (s : State) : State :=
  { s with keyPrev := s.keysNow
           inputs := { s.inputs with keys := s.inputs.keys.tail, draws := s.inputs.draws + 1 } }

/-- Write a found key code to `Vx`; nothing when none was found (R234). -/
def State.storeKey (s : State) (x : Reg) (k : Option Nat) : State :=
  { s with v := match k with
                | none => s.v
                | some k => s.v.set x (BitVec.ofNat 8 k) }

/-! The random byte. -/

/-- The byte of `rand_in` a draw takes now (R182; log 7). -/
def State.randNow (s : State) : Byte := s.inputs.rand.headD (Config.randIn s.inputs.draws)

/-- The state after `RandIn()` has taken its byte (R182). -/
def State.randDrawn (s : State) : State :=
  { s with inputs := { s.inputs with rand := s.inputs.rand.tail, draws := s.inputs.draws + 1 } }

/-! Timers. -/

/-- `DT <- v`, `dt_phase <- 0` (R235). -/
def State.loadDelay (s : State) (v : Byte) : State := { s with dt := v, dtPhase := 0 }

/-- `ST <- v`, `st_phase <- 0` (R236). -/
def State.loadSound (s : State) (v : Byte) : State := { s with st := v, stPhase := 0 }

/-- `DTRead()` (R314). -/
def State.dtRead (s : State) : Byte :=
  match s.cfg.dtReadRounding with
  | .ceil => s.dt
  | .floor => if 0 < s.dt.toNat ∧ 0 < s.dtPhase then s.dt - 1 else s.dt

/-- One master cycle of a countdown `(T, phase)`: `T` loses 1 every `div` master cycles while it is not 0 (R310). -/
def countdown (div : Nat) (t : Byte × Nat) : Byte × Nat :=
  if t.1 = 0 then t else if t.2 + 1 = div then (t.1 - 1, 0) else (t.1, t.2 + 1)

/-! The stages of a master cycle. -/

/-- Both countdowns, before anything else of the master cycle (R310, R311). -/
def State.countdowns (s : State) : State :=
  let d := countdown s.cfg.timerDiv (s.dt, s.dtPhase)
  let e := countdown s.cfg.timerDiv (s.st, s.stPhase)
  { s with dt := d.1, dtPhase := d.2, st := e.1, stPhase := e.2 }

/-- The `present_req` pulse of the master cycle before has ended (R43; log 9). -/
def State.endPulse (s : State) : State := { s with presentReq := false }

/-- This master cycle is a CPU tick: `cpu_cnt` reaches `CPU_DIV` (R309). -/
def State.tickDue (s : State) : Bool := s.cpuCnt + 1 == s.cfg.cpuDiv

/-- The start of a master cycle while RUNNING: the countdowns, then the prescaler, which counts up or, on a CPU tick,
returns to 0 (R309, R311). -/
def State.beginCycle (s : State) : State :=
  { s.endPulse.countdowns with cpuCnt := if s.tickDue then 0 else s.cpuCnt + 1 }

/-- The word the fetch reads at `PC`: the byte at `PC` is the high byte (R62, R120). -/
def State.fetchWord (s : State) : Word := wordOfBytes (s.memByte s.pc.toNat) (s.memByte (s.pc.toNat + 1))

/-- CLS and DRW, the instructions lazy mode presents after (R203). -/
def drawsDisplay : Instr → Bool
  | .cls => true
  | .drw _ _ _ => true
  | _ => false

/-- `PresentLogic(ins)` (R203, R204). -/
def State.presentLogic (ins : Instr) (s : State) : State :=
  if s.cfg.lazyRender then { s with presentReq := drawsDisplay ins }
  else if s.refreshCnt + 1 = s.cfg.refreshK then { s with refreshCnt := 0, presentReq := true }
  else { s with refreshCnt := s.refreshCnt + 1 }

/-- What follows an instruction's execution in its cycle: `PresentLogic` when it raised no fault (R120, R124). -/
def State.afterExecute (ins : Instr) (s : State) : State :=
  match s.runState with
  | .running => s.presentLogic ins
  | .halted => s
  | .stopped => s

/-- The sampling of `quit_in` after an instruction cycle that completed without a fault (R311, R316; log 8). -/
def State.sampleQuit (s : State) : State :=
  match s.runState with
  | .running =>
    { s with runState := if s.inputs.quit.headD false then .stopped else .running
             inputs := { s.inputs with quit := s.inputs.quit.tail } }
  | .halted => s
  | .stopped => s

/-! The outputs that have no storage (R43). -/

/-- `sound_on`: 1 iff the core is RUNNING and `ST ≠ 0` (R313; log 10). -/
def State.soundOn (s : State) : Bool := s.runState == .running && s.st != 0

/-- `fb_rd(c, r)`, the pixel the presentation sink reads (R207). -/
def State.fbRd (s : State) (c : Fin 64) (r : Fin 32) : Bool := s.fb.pixel c r

/-- `halted` (R43, R301). -/
def State.haltedOut (s : State) : Bool := s.runState == .halted

/-- `stopped` (R43, R316). -/
def State.stoppedOut (s : State) : Bool := s.runState == .stopped

/-- `overrun`, constantly 0: the reentrancy guard never fires (R312). -/
def State.overrun (_ : State) : Bool := false

/-! Placing an instruction where the next step fetches it. -/

/-- `s` with the word `w` in memory at `PC` (two bytes, big-endian) and the prescaler one master cycle before a CPU tick,
so that the next master cycle fetches and runs it (R62, R309; log 3, 4). -/
def State.placeWord (s : State) (w : Word) : State :=
  { s with mem := (s.mem.writeBytes s.pc.toNat [highByte w, lowByte w]).filter fun c => c.1 < memSize
           cpuCnt := s.cfg.cpuDiv - 1 }

end Sys2Proof.Machine
end

