-- ==== Sys2Proof/Machine/Operands.lean ====
section
/-! DEFINITION. The operand forms that are more than a register or an immediate: the shift operand, the indexed jump
target, sprite coordinates, the key code, the glyph address and the decimal digits (spec 42_alu.md R180, 41_control.md
R149, 43_display.md R206, 44_keys_timers.md R231, 45_index_memory.md R262, R263). -/

namespace Sys2Proof.Machine

/-- The operand of SHR and SHL: Vy when `LEGACY_SHIFT` is set, Vx otherwise (R180, R181). -/
def State.shiftOperand (s : State) (x y : Reg) : Byte := if s.cfg.legacyShift then s.reg y else s.reg x

/-- The target of `Bnnn`: `(nnn + V0) & 0xFFF` (R149). -/
def State.indexedTarget (s : State) (nnn : Addr12) : Word :=
  BitVec.ofNat 16 ((nnn.toNat + (s.reg 0).toNat) % 4096)

/-- The column of DRW: `Vx mod 64` (R206). -/
def State.drawColumn (s : State) (x : Reg) : Nat := (s.reg x).toNat % 64

/-- The row of DRW: `Vy mod 32` (R206). -/
def State.drawRow (s : State) (y : Reg) : Nat := (s.reg y).toNat % 32

/-- The key code in Vx; none when it is above 0xF, which is KEY_INDEX (R231, R232). -/
def State.keyCode (s : State) (x : Reg) : Option Nat :=
  if 0xF < (s.reg x).toNat then none else some (s.reg x).toNat

/-- The address of the glyph of `Vx & 0xF`: `FONT_OFFSET + 5 × (Vx & 0xF)`, before masking (R262). -/
def State.glyphAddress (s : State) (x : Reg) : Nat := s.cfg.fontOffset.toNat + 5 * ((s.reg x).toNat % 16)

/-- The hundreds, tens and units digits of a byte, in that order (R263). -/
def bcdDigits (b : Byte) : List Byte :=
  [BitVec.ofNat 8 (b.toNat / 100), BitVec.ofNat 8 (b.toNat / 10 % 10), BitVec.ofNat 8 (b.toNat % 10)]

end Sys2Proof.Machine
end

