-- ==== Sys2Proof/Machine/Alu.lean ====
section
/-! DEFINITION. Register arithmetic and logic (spec 42_alu.md R170 to R182). Results are exact naturals narrowed to 8 bits
(R14, R170); operands are read before any write (R122) and the flag is written last (R123). -/

namespace Sys2Proof.Machine

/-- LD Vx, kk (R171). -/
def execLdK (x : Reg) (kk : Byte) (s : State) : Result := .next (s.setReg x kk)

/-- LD Vx, Vy (R172). -/
def execLdR (x y : Reg) (s : State) : Result := .next (s.setReg x (s.reg y))

/-- ADD Vx, kk: wraps, no flag (R173). -/
def execAddK (x : Reg) (kk : Byte) (s : State) : Result :=
  .next (s.setReg x (BitVec.ofNat 8 ((s.reg x).toNat + kk.toNat)))

/-- OR Vx, Vy (R174). -/
def execOrR (x y : Reg) (s : State) : Result := .next (s.setResultFlag x (s.reg x ||| s.reg y) logicFlag)

/-- AND Vx, Vy (R175). -/
def execAndR (x y : Reg) (s : State) : Result := .next (s.setResultFlag x (s.reg x &&& s.reg y) logicFlag)

/-- XOR Vx, Vy (R176). -/
def execXorR (x y : Reg) (s : State) : Result := .next (s.setResultFlag x (s.reg x ^^^ s.reg y) logicFlag)

/-- ADD Vx, Vy (R177). -/
def execAddR (x y : Reg) (s : State) : Result :=
  .next (s.setResultFlag x (BitVec.ofNat 8 ((s.reg x).toNat + (s.reg y).toNat)) (carryFlag (s.reg x) (s.reg y)))

/-- SUB Vx, Vy: `Vx − Vy` (R178). -/
def execSubR (x y : Reg) (s : State) : Result :=
  .next (s.setResultFlag x (BitVec.ofNat 8 ((s.reg x).toNat + 256 - (s.reg y).toNat)) (greaterFlag (s.reg x) (s.reg y)))

/-- SUBN Vx, Vy: `Vy − Vx` (R179). -/
def execSubnR (x y : Reg) (s : State) : Result :=
  .next (s.setResultFlag x (BitVec.ofNat 8 ((s.reg y).toNat + 256 - (s.reg x).toNat)) (greaterFlag (s.reg y) (s.reg x)))

/-- SHR Vx, Vy (R180). -/
def execShrR (x y : Reg) (s : State) : Result :=
  .next (s.setResultFlag x (s.shiftOperand x y >>> 1) (lowBitFlag (s.shiftOperand x y)))

/-- SHL Vx, Vy (R181). -/
def execShlR (x y : Reg) (s : State) : Result :=
  .next (s.setResultFlag x (s.shiftOperand x y <<< 1) (highBitFlag (s.shiftOperand x y)))

/-- RND Vx, kk: one draw of `rand_in` AND kk (R182). -/
def execRnd (x : Reg) (kk : Byte) (s : State) : Result := .next (s.randDrawn.setReg x (s.randNow &&& kk))

end Sys2Proof.Machine
end

