-- ==== Sys2Proof/Machine/Control.lean ====
section
/-! DEFINITION. Control transfer (spec 41_control.md R142 to R149). On entry `PC = a + 2` (R129). -/

namespace Sys2Proof.Machine

/-- RET: `pc <- Pop()`, or STACK_UNDERFLOW (R142). -/
def execRet (s : State) : Result :=
  match s.pop with
  | none => .next (s.raise .stackUnderflow (encode .ret))
  | some (target, t) => .next (t.jump target)

/-- JP nnn (R143). -/
def execJp (nnn : Addr12) (s : State) : Result := .next (s.jump (nnn.zeroExtend 16))

/-- CALL nnn: push the advanced `PC` and jump, or STACK_OVERFLOW (R144). -/
def execCall (nnn : Addr12) (s : State) : Result :=
  match s.push s.pc with
  | none => .next (s.raise .stackOverflow (encode (.call nnn)))
  | some t => .next (t.jump (nnn.zeroExtend 16))

/-- SE Vx, kk (R145). -/
def execSeK (x : Reg) (kk : Byte) (s : State) : Result := .next (s.skipIf (s.reg x == kk))

/-- SNE Vx, kk (R146). -/
def execSneK (x : Reg) (kk : Byte) (s : State) : Result := .next (s.skipIf (s.reg x != kk))

/-- SE Vx, Vy (R147). -/
def execSeR (x y : Reg) (s : State) : Result := .next (s.skipIf (s.reg x == s.reg y))

/-- SNE Vx, Vy (R148). -/
def execSneR (x y : Reg) (s : State) : Result := .next (s.skipIf (s.reg x != s.reg y))

/-- JP V0, nnn (R149). -/
def execJpV0 (nnn : Addr12) (s : State) : Result := .next (s.jump (s.indexedTarget nnn))

end Sys2Proof.Machine
end

