-- ==== Sys2Proof/Machine/Display.lean ====
section
/-! DEFINITION. The display instructions (spec 43_display.md R205, R206). Their present request is `PresentLogic`'s, in
the instruction cycle (R203, R204). -/

namespace Sys2Proof.Machine

/-- CLS: `Clear()` (R202, R205). -/
def execCls (s : State) : Result := .next (s.setFb Framebuffer.blank)

/-- DRW Vx, Vy, n: blit the `n` bytes at `I` at (Vx mod 64, Vy mod 32) and write the collision to `VF`, or MEM_OOB (R206). -/
def execDrw (x y : Reg) (n : BitVec 4) (s : State) : Result :=
  match s.loadBytes n.toNat with
  | none => .next (s.raise .memOob (encode (.drw x y n)))
  | some bytes =>
    let blit := spriteBlit s.fb (s.drawColumn x) (s.drawRow y) bytes
    .next ((s.setFb blit.1).setReg flagReg (collisionFlag blit.2))

end Sys2Proof.Machine
end

