-- ==== Sys2Proof/Machine/IndexMemory.lean ====
section
/-! DEFINITION. Address register and memory transfer (spec 45_index_memory.md R260 to R265). -/

namespace Sys2Proof.Machine

/-- LD I, nnn (R260). -/
def execLdI (nnn : Addr12) (s : State) : Result := .next (s.setI nnn.toNat)

/-- ADD I, Vx: the flag is 1 iff the exact sum passes 0xFFF (R261). -/
def execAddI (x : Reg) (s : State) : Result :=
  .next ((s.setI (s.i.toNat + (s.reg x).toNat)).setReg flagReg (indexFlag s.i (s.reg x)))

/-- LD F, Vx (R262). -/
def execLdF (x : Reg) (s : State) : Result := .next (s.setI (s.glyphAddress x))

/-- LD B, Vx: store the three decimal digits at `I`, or MEM_OOB (R263). -/
def execLdB (x : Reg) (s : State) : Result :=
  match s.storeBytes (bcdDigits (s.reg x)) with
  | none => .next (s.raise .memOob (encode (.ldB x)))
  | some t => .next t

/-- LD [I], Vx: store V0 to Vx at `I` and advance `I` by x + 1, or MEM_OOB (R264). -/
def execLdMemVx (x : Reg) (s : State) : Result :=
  match s.storeBytes (s.regsUpTo x) with
  | none => .next (s.raise .memOob (encode (.ldMemVx x)))
  | some t => .next (t.setI (s.i.toNat + x.val + 1))

/-- LD Vx, [I]: load V0 to Vx from `I` and advance `I` by x + 1, or MEM_OOB (R265). -/
def execLdVxMem (x : Reg) (s : State) : Result :=
  match s.loadBytes (x.val + 1) with
  | none => .next (s.raise .memOob (encode (.ldVxMem x)))
  | some bytes => .next (({ s with v := setRegsFrom s.v 0 bytes } : State).setI (s.i.toNat + x.val + 1))

end Sys2Proof.Machine
end

