-- ==== Sys2Proof/Machine/KeysTimers.lean ====
section
/-! DEFINITION. Key and timer instructions (spec 44_keys_timers.md R231 to R236). -/

namespace Sys2Proof.Machine

/-- SKP Vx: refresh the keys and skip when key Vx is pressed now, or KEY_INDEX before the refresh (R231). -/
def execSkp (x : Reg) (s : State) : Result :=
  match s.keyCode x with
  | none => .next (s.raise .keyIndex (encode (.skp x)))
  | some k => .next (s.keyRefresh.skipIf (s.keysNow.getLsbD k))

/-- SKNP Vx: refresh the keys and skip when key Vx is not pressed now, or KEY_INDEX before the refresh (R232). -/
def execSknp (x : Reg) (s : State) : Result :=
  match s.keyCode x with
  | none => .next (s.raise .keyIndex (encode (.sknp x)))
  | some k => .next (s.keyRefresh.skipIf (!s.keysNow.getLsbD k))

/-- LD Vx, DT (R233, R314). -/
def execLdVxDt (x : Reg) (s : State) : Result := .next (s.setReg x s.dtRead)

/-- LD Vx, K: refresh the keys; write the lowest newly pressed key to Vx, or rewind `PC` when there is none (R234). -/
def execLdVxK (x : Reg) (s : State) : Result :=
  .next ((s.keyRefresh.storeKey x s.newKey).rewindIf s.newKey.isNone)

/-- LD DT, Vx (R235). -/
def execLdDtVx (x : Reg) (s : State) : Result := .next (s.loadDelay (s.reg x))

/-- LD ST, Vx (R236). -/
def execLdStVx (x : Reg) (s : State) : Result := .next (s.loadSound (s.reg x))

end Sys2Proof.Machine
end

