-- ==== Sys2Proof/Machine/Cycle.lean ====
section
/-! DEFINITION. The instruction cycle and the master cycle (spec 40_cycle.md R120, R121; 60_exceptions.md R303, R311). -/

namespace Sys2Proof.Machine

/-- Decode and execute after the fetch of `w`, with `PC = a + 2` already (R120). -/
def executeWord (w : Word) (s : State) : Result :=
  match decode w with
  | .unknownOpcode _ => .next (s.raise .unknownOpcode w)
  | .instr ins =>
    match exec ins s with
    | .next t => .next (t.afterExecute ins)
    | .fault r => .fault r
    | .refused r => .refused r

/-- `InstructionCycle()` (R120): the fetch checks, in the order of R121 and R303, then fetch, decode and execute. -/
def instructionCycle (s : State) : Result :=
  if s.pc.toNat % 2 = 1 then .next (s.haltFetch .pcMisaligned)
  else if 0xFFE < s.pc.toNat then .next (s.haltFetch .pcOob)
  else executeWord s.fetchWord s.advance

/-- A CPU tick: one instruction cycle, then the sampling of `quit_in` (R311). -/
def cpuTick (s : State) : Result :=
  match instructionCycle s with
  | .next t => .next t.sampleQuit
  | .fault r => .fault r
  | .refused r => .refused r

/-- `MasterCycle()` (R311). HALTED and STOPPED are frozen; only a `present_req` pulse of the cycle before ends (log 9). -/
def masterCycle (s : State) : Result :=
  match s.runState with
  | .running => if s.tickDue then cpuTick s.beginCycle else .next s.beginCycle
  | .halted => .next s.endPulse
  | .stopped => .next s.endPulse

end Sys2Proof.Machine
end

