-- ==== Sys2Proof/Machine/Step.lean ====
section
/-! DEFINITION. One step of the machine is one master cycle (spec 60_exceptions.md R311; log 4). -/

namespace Sys2Proof.Machine

/-- One master cycle. -/
def step (s : State) : Host.Outcome State Fault Refusal := masterCycle s

/-- `s` with the instruction word `w` stored where the next step fetches, and the prescaler at its last count, so that the
next step of a RUNNING core runs it. An instruction has 16 bits (R90), so `nbits` decides nothing. -/
def State.withFetchWord (s : State) (_nbits w : Nat) : State := s.placeWord (BitVec.ofNat 16 w)

end Sys2Proof.Machine
end

