-- ==== Sys2Proof/Safety.lean ====
section
/-! DEFINITION. What counts as a safe state, and the invariant of the machine, in the terms the claims use. -/

namespace Sys2Proof.Machine

/-- A safe state: no fatal error has occurred (spec 60_exceptions.md R300, R301). -/
def State.Safe (s : State) : Prop := s.runState ≠ .halted

/-- The ranges R20 to R36 give the state, and what the fault record says (R35, R300, R301). -/
structure State.Inv (s : State) : Prop where
  /-- The divisors are at least 1 and the font fits (R351). -/
  cfg_legal : s.cfg.divisorsPositive = true ∧ s.cfg.fontFits = true
  /-- Memory is in its canonical form and inside 0x000 to 0xFFF (R60; log 14). -/
  mem_wf : s.mem.wf
  /-- Bits 15:12 of `I` are 0 (R24). -/
  i_masked : s.i.toNat < 4096
  /-- `PC` never passes 0x1002 (R127). -/
  pc_bound : s.pc.toNat ≤ 0x1002
  /-- Every stack entry is even and at most 0x1000 (R142). -/
  stack_even : ∀ k : Fin 16, s.stack[k].toNat % 2 = 0 ∧ s.stack[k].toNat ≤ 0x1000
  /-- `dt_phase` is 0..TIMER_DIV−1 (R27). -/
  dt_phase : s.dtPhase < s.cfg.timerDiv
  /-- A disarmed delay clock has phase 0 (R310). -/
  dt_idle : s.dt = 0 → s.dtPhase = 0
  /-- `st_phase` is 0..TIMER_DIV−1 (R28). -/
  st_phase : s.stPhase < s.cfg.timerDiv
  /-- A disarmed sound clock has phase 0 (R310). -/
  st_idle : s.st = 0 → s.stPhase = 0
  /-- `cpu_cnt` is 0..CPU_DIV−1 (R32). -/
  cpu_cnt : s.cpuCnt < s.cfg.cpuDiv
  /-- `refresh_cnt` is 0..REFRESH_K−1 (R33). -/
  refresh_cnt : s.refreshCnt < s.cfg.refreshK
  /-- A fault code is latched exactly in HALTED (R35, R301). -/
  halted_iff : s.runState = .halted ↔ s.faultCode ≠ .none
  /-- No fault: `fault_pc` is 0 (R40, R300). -/
  no_fault_pc : s.faultCode = .none → s.faultPc = 0
  /-- In HALTED, `PC` is `fault_pc` (R301). -/
  halted_pc : s.runState = .halted → s.pc = s.faultPc
  /-- `fault_word` is valid exactly for the faults that are not the fetch's (R35, R300). -/
  fault_word : s.faultWord.isSome ↔
    s.faultCode ≠ .none ∧ s.faultCode ≠ .pcMisaligned ∧ s.faultCode ≠ .pcOob

/-! Words the claims are made of, written from the spec and not from the model's own operations. -/

/-- The word whose value is `value` decodes to `i`: how a claim gives an encoding (30_encoding.md R92, R93). -/
def EncodedAs (value : Nat) (i : Instr) : Prop := ∀ w : Word, w.toNat = value → decode w = .instr i

/-- The state a fault leaves, from the state an instruction executes in (`PC = a + 2`), for the instruction word `w`
(R124, R300, R301): `PC` is put back to `a`, the core is HALTED, the record is latched, nothing else changes. -/
def faulted (s : State) (code : FaultCode) (w : Word) : State :=
  { s with pc := s.pc - 2, runState := .halted, faultCode := code, faultPc := s.pc - 2, faultWord := some w }

/-- `i` completes in `s`; it writes `r` to `Vx`, and nothing else of the state changes. -/
def WritesReg (i : Instr) (s : State) (x : Reg) (r : Byte) : Prop :=
  ∃ t, exec i s = .next t ∧ t = { s with v := t.v } ∧ ∀ j : Reg, t.reg j = if j = x then r else s.reg j

/-- `i` completes in `s`; it writes `r` to `Vx` and then `f` to `VF`, and nothing else of the state changes (R123). -/
def WritesRegFlag (i : Instr) (s : State) (x : Reg) (r f : Byte) : Prop :=
  ∃ t, exec i s = .next t ∧ t = { s with v := t.v } ∧
    ∀ j : Reg, t.reg j = if j = 15 then f else if j = x then r else s.reg j

/-- The fault an instruction raises in a state, by the "raised by" and "condition" columns of R300; none when it raises
no fault. -/
def ownFault (i : Instr) (s : State) : Option FaultCode :=
  match i with
  | .ret => if s.sp.val = 0 then some .stackUnderflow else none
  | .call _ => if s.sp.val = 16 then some .stackOverflow else none
  | .drw _ _ n => if 0 < n.toNat ∧ 0xFFF < s.i.toNat + n.toNat - 1 then some .memOob else none
  | .ldB _ => if 0xFFF < s.i.toNat + 2 then some .memOob else none
  | .ldMemVx x => if 0xFFF < s.i.toNat + x.val then some .memOob else none
  | .ldVxMem x => if 0xFFF < s.i.toNat + x.val then some .memOob else none
  | .skp x => if 0xF < (s.reg x).toNat then some .keyIndex else none
  | .sknp x => if 0xF < (s.reg x).toNat then some .keyIndex else none
  | _ => none

/-- A master cycle of `s` is a CPU tick that fetches without a fault: the core is RUNNING, the prescaler is at its last
count, `PC` is even and at most 0xFFE (R121, R309, R311). -/
def TickFetches (s : State) : Prop :=
  s.runState = .running ∧ s.cpuCnt + 1 = s.cfg.cpuDiv ∧ s.pc.toNat % 2 = 0 ∧ s.pc.toNat ≤ 0xFFE

/-- A master cycle of `s` is a CPU tick that fetches and runs `i` (R94, R120, R128). -/
def TickRuns (s : State) (i : Instr) : Prop := TickFetches s ∧ decode s.fetchWord = .instr i

end Sys2Proof.Machine
end

