-- ==== Sys2Proof/Certificates/Slice0/Obligations.lean ====
section
/-! DEFINITION. The statements for the provers, by file of spec/. Each docstring names the rules it formalises.
A result is written in natural-number arithmetic, as the spec writes it (R14), and a frame as an equation between states:
`t = { s with v := t.v }` says that `t` differs from `s` in the register file alone. -/

open Sys2Proof Sys2Proof.Machine

/-! ## Encoding (30_encoding.md) -/

/-- Decoding the word of any instruction gives the instruction back, every operand at every value (R92 to R94). -/
def Obligations.DecodeOfEncodeIsTheInstruction : Prop := ∀ i : Instr, decode (encode i) = .instr i

/-- A legal word is the word of the instruction it decodes to: no word is a second spelling (R94, R96, R99). -/
def Obligations.EncodeOfDecodeIsTheWord : Prop := ∀ (w : Word) (i : Instr), decode w = .instr i → encode i = w

/-- The decoder rejects exactly the words the list of R95 names. -/
def Obligations.DecodeRejectsExactlyTheIllegalWords : Prop :=
  ∀ w : Word, (decode w = .unknownOpcode w ∨ ∃ i, decode w = .instr i) ∧
    ((∃ i, decode w = .instr i) ↔
      ¬ ((w.toNat / 4096 = 0x0 ∧ w.toNat ≠ 0x00E0 ∧ w.toNat ≠ 0x00EE) ∨
         (w.toNat / 4096 = 0x5 ∧ w.toNat % 16 ≠ 0) ∨
         (w.toNat / 4096 = 0x8 ∧ w.toNat % 16 ∈ [0x8, 0x9, 0xA, 0xB, 0xC, 0xD, 0xF]) ∨
         (w.toNat / 4096 = 0x9 ∧ w.toNat % 16 ≠ 0) ∨
         (w.toNat / 4096 = 0xE ∧ w.toNat % 256 ∉ [0x9E, 0xA1]) ∨
         (w.toNat / 4096 = 0xF ∧
           w.toNat % 256 ∉ [0x07, 0x0A, 0x15, 0x18, 0x1E, 0x29, 0x33, 0x55, 0x65])))

/-- Words of the spec's own examples, one or more of each family, decode to the instructions the spec says they are
(the examples of R142 to R265). -/
def Obligations.SpecExampleWordsDecode : Prop :=
  decode 0x00E0 = .instr .cls ∧ decode 0x1200 = .instr (.jp 0x200) ∧ decode 0x9120 = .instr (.sneR 1 2) ∧
  decode 0x6A02 = .instr (.ldK 0xA 0x02) ∧ decode 0x8AB4 = .instr (.addR 0xA 0xB) ∧
  decode 0xD125 = .instr (.drw 1 2 5) ∧ decode 0xE5A1 = .instr (.sknp 5) ∧ decode 0xF20A = .instr (.ldVxK 2) ∧
  decode 0xA2F0 = .instr (.ldI 0x2F0) ∧ decode 0xFA33 = .instr (.ldB 0xA) ∧ decode 0x0123 = .unknownOpcode 0x0123

/-! ## Control transfer (41_control.md) -/

/-- RET (R141, R142): with an entry in use it takes the top entry into `PC` and frees it; with none it faults
STACK_UNDERFLOW. Nothing else changes. -/
def Obligations.RetPopsTheStackOrUnderflows : Prop :=
  EncodedAs 0x00EE .ret ∧
  (∀ (s : State) (k : Fin 16), s.sp.val = k.val + 1 →
    ∃ t, exec .ret s = .next t ∧ t = { s with pc := s.stack[k], sp := t.sp } ∧ t.sp.val = k.val) ∧
  (∀ s : State, s.sp.val = 0 → exec .ret s = .next (faulted s .stackUnderflow 0x00EE))

/-- JP nnn (R143) and JP V0, nnn (R149): `PC` takes the target, and nothing else changes. -/
def Obligations.JumpsSetThePc : Prop :=
  (∀ nnn : Addr12, EncodedAs (0x1000 + nnn.toNat) (.jp nnn) ∧ ∀ s : State,
    exec (.jp nnn) s = .next { s with pc := BitVec.ofNat 16 nnn.toNat }) ∧
  (∀ nnn : Addr12, EncodedAs (0xB000 + nnn.toNat) (.jpV0 nnn) ∧ ∀ s : State,
    exec (.jpV0 nnn) s = .next { s with pc := BitVec.ofNat 16 ((nnn.toNat + (s.reg 0).toNat) % 4096) })

/-- CALL nnn (R140, R144): with a free entry it stores the advanced `PC` there and jumps; with 16 in use it faults
STACK_OVERFLOW. Nothing else changes, and no other entry of the stack does. -/
def Obligations.CallPushesThePcOrOverflows : Prop :=
  ∀ nnn : Addr12, EncodedAs (0x2000 + nnn.toNat) (.call nnn) ∧
  (∀ (s : State) (k : Fin 16), s.sp.val = k.val →
    ∃ t, exec (.call nnn) s = .next t ∧
      t = { s with pc := BitVec.ofNat 16 nnn.toNat, stack := t.stack, sp := t.sp } ∧ t.sp.val = k.val + 1 ∧
      t.stack[k] = s.pc ∧ ∀ j : Fin 16, j ≠ k → t.stack[j] = s.stack[j]) ∧
  (∀ (s : State) (w : Word), s.sp.val = 16 → w.toNat = 0x2000 + nnn.toNat →
    exec (.call nnn) s = .next (faulted s .stackOverflow w))

/-- The four skips (R145 to R148): `PC` advances by 2 more exactly when the comparison holds; nothing else changes. -/
def Obligations.SkipsCompareRegisters : Prop :=
  (∀ (x : Reg) (kk : Byte), EncodedAs (0x3000 + 256 * x.val + kk.toNat) (.seK x kk) ∧ ∀ s : State,
    exec (.seK x kk) s = .next { s with pc := if s.reg x = kk then s.pc + 2 else s.pc }) ∧
  (∀ (x : Reg) (kk : Byte), EncodedAs (0x4000 + 256 * x.val + kk.toNat) (.sneK x kk) ∧ ∀ s : State,
    exec (.sneK x kk) s = .next { s with pc := if s.reg x ≠ kk then s.pc + 2 else s.pc }) ∧
  (∀ x y : Reg, EncodedAs (0x5000 + 256 * x.val + 16 * y.val) (.seR x y) ∧ ∀ s : State,
    exec (.seR x y) s = .next { s with pc := if s.reg x = s.reg y then s.pc + 2 else s.pc }) ∧
  (∀ x y : Reg, EncodedAs (0x9000 + 256 * x.val + 16 * y.val) (.sneR x y) ∧ ∀ s : State,
    exec (.sneR x y) s = .next { s with pc := if s.reg x ≠ s.reg y then s.pc + 2 else s.pc })

/-- A CALL and the RET after it come back to the instruction after the CALL, whatever the subroutine's address: the stack
is last-in first-out (R141's closing sentence, which the spec marks as its own inference). The entry the CALL wrote is the
only trace. -/
def Obligations.CallThenRetComesBack : Prop :=
  ∀ (s : State) (nnn : Addr12), s.sp.val < 16 →
    ∃ t u, exec (.call nnn) s = .next t ∧ exec .ret t = .next u ∧ u = { s with stack := u.stack } ∧
      ∀ j : Fin 16, j.val ≠ s.sp.val → u.stack[j] = s.stack[j]

/-! ## Register arithmetic and logic (42_alu.md) -/

/-- LD Vx, kk (R171), LD Vx, Vy (R172), ADD Vx, kk (R173): the result goes to Vx; no flag and nothing else changes. -/
def Obligations.LoadsAndAddImmediateWriteVx : Prop :=
  (∀ (x : Reg) (kk : Byte), EncodedAs (0x6000 + 256 * x.val + kk.toNat) (.ldK x kk) ∧
    ∀ s : State, WritesReg (.ldK x kk) s x kk) ∧
  (∀ x y : Reg, EncodedAs (0x8000 + 256 * x.val + 16 * y.val) (.ldR x y) ∧
    ∀ s : State, WritesReg (.ldR x y) s x (s.reg y)) ∧
  (∀ (x : Reg) (kk : Byte), EncodedAs (0x7000 + 256 * x.val + kk.toNat) (.addK x kk) ∧
    ∀ s : State, WritesReg (.addK x kk) s x (BitVec.ofNat 8 (((s.reg x).toNat + kk.toNat) % 256)))

/-- OR (R174), AND (R175), XOR (R176): the result, bit by bit, goes to Vx, and VF is cleared last, always. -/
def Obligations.LogicClearsVf : Prop :=
  ∀ x y : Reg,
  (EncodedAs (0x8001 + 256 * x.val + 16 * y.val) (.orR x y) ∧ ∀ (s : State) (r : Byte),
    (∀ k < 8, r.getLsbD k = ((s.reg x).getLsbD k || (s.reg y).getLsbD k)) → WritesRegFlag (.orR x y) s x r 0) ∧
  (EncodedAs (0x8002 + 256 * x.val + 16 * y.val) (.andR x y) ∧ ∀ (s : State) (r : Byte),
    (∀ k < 8, r.getLsbD k = ((s.reg x).getLsbD k && (s.reg y).getLsbD k)) → WritesRegFlag (.andR x y) s x r 0) ∧
  (EncodedAs (0x8003 + 256 * x.val + 16 * y.val) (.xorR x y) ∧ ∀ (s : State) (r : Byte),
    (∀ k < 8, r.getLsbD k = ((s.reg x).getLsbD k ^^ (s.reg y).getLsbD k)) → WritesRegFlag (.xorR x y) s x r 0)

/-- ADD Vx, Vy (R177): the sum mod 256 goes to Vx, then the carry to VF. -/
def Obligations.AddRegistersSetsCarry : Prop :=
  ∀ x y : Reg, EncodedAs (0x8004 + 256 * x.val + 16 * y.val) (.addR x y) ∧ ∀ s : State,
    WritesRegFlag (.addR x y) s x (BitVec.ofNat 8 (((s.reg x).toNat + (s.reg y).toNat) % 256))
      (if (s.reg x).toNat + (s.reg y).toNat > 255 then 1 else 0)

/-- SUB (R178) and SUBN (R179): the difference mod 256 goes to Vx, then 1 to VF iff the minuend is strictly greater. -/
def Obligations.SubtractionsSetStrictFlag : Prop :=
  ∀ x y : Reg,
  (EncodedAs (0x8005 + 256 * x.val + 16 * y.val) (.subR x y) ∧ ∀ s : State,
    WritesRegFlag (.subR x y) s x (BitVec.ofNat 8 (((s.reg x).toNat + 256 - (s.reg y).toNat) % 256))
      (if (s.reg x).toNat > (s.reg y).toNat then 1 else 0)) ∧
  (EncodedAs (0x8007 + 256 * x.val + 16 * y.val) (.subnR x y) ∧ ∀ s : State,
    WritesRegFlag (.subnR x y) s x (BitVec.ofNat 8 (((s.reg y).toNat + 256 - (s.reg x).toNat) % 256))
      (if (s.reg y).toNat > (s.reg x).toNat then 1 else 0))

/-- SHR (R180) and SHL (R181): `src` is Vy under LEGACY_SHIFT and Vx otherwise; the shifted `src` goes to Vx, then the bit
shifted out to VF. -/
def Obligations.ShiftsTakeTheConfiguredOperand : Prop :=
  ∀ x y : Reg,
  (EncodedAs (0x8006 + 256 * x.val + 16 * y.val) (.shrR x y) ∧ ∀ (s : State) (src : Nat),
    src = (if s.cfg.legacyShift then (s.reg y).toNat else (s.reg x).toNat) →
    WritesRegFlag (.shrR x y) s x (BitVec.ofNat 8 (src / 2)) (BitVec.ofNat 8 (src % 2))) ∧
  (EncodedAs (0x800E + 256 * x.val + 16 * y.val) (.shlR x y) ∧ ∀ (s : State) (src : Nat),
    src = (if s.cfg.legacyShift then (s.reg y).toNat else (s.reg x).toNat) →
    WritesRegFlag (.shlR x y) s x (BitVec.ofNat 8 (2 * src % 256)) (BitVec.ofNat 8 (src / 128)))

/-- RND Vx, kk (R182): one byte `r` is drawn from `rand_in`, and `r` AND kk goes to Vx. Where the environment has scripted
the next byte, `r` is that byte, any byte it may be. How the model holds the input port is the model's choice (log 7). -/
def Obligations.RndMasksOneDraw : Prop :=
  ∀ (x : Reg) (kk : Byte), EncodedAs (0xC000 + 256 * x.val + kk.toNat) (.rnd x kk) ∧ ∀ s : State,
    ∃ t r, exec (.rnd x kk) s = .next t ∧ t = { s with v := t.v, inputs := t.inputs } ∧
      (∀ j : Reg, t.reg j = if j = x then r &&& kk else s.reg j) ∧
      t.inputs = { s.inputs with rand := s.inputs.rand.tail, draws := s.inputs.draws + 1 } ∧
      ∀ b rest, s.inputs.rand = b :: rest → r = b

/-! ## Display (43_display.md) -/

/-- CLS (R202, R205): every pixel is off; nothing else changes, VF included. -/
def Obligations.ClsTurnsEveryPixelOff : Prop :=
  EncodedAs 0x00E0 .cls ∧ ∀ s : State, ∃ t, exec .cls s = .next t ∧ t = { s with fb := t.fb } ∧
    ∀ c r, t.fbRd c r = false

/-- DRW (R200, R206): with the sprite in bounds it completes; the pixel at ((Vx mod 64 + j) mod 64, (Vy mod 32 + i) mod 32)
is XORed with bit 7 − j of the byte at I + i, for the n rows i and 8 columns j; every other pixel, every register but VF,
and everything else is as before. Out of bounds it faults MEM_OOB and draws nothing. -/
def Obligations.DrwXorsTheSprite : Prop :=
  ∀ (x y : Reg) (n : BitVec 4), EncodedAs (0xD000 + 256 * x.val + 16 * y.val + n.toNat) (.drw x y n) ∧
  (∀ s : State, (n.toNat = 0 ∨ s.i.toNat + n.toNat - 1 ≤ 0xFFF) →
    ∃ t, exec (.drw x y n) s = .next t ∧ t = { s with v := t.v, fb := t.fb } ∧
      (∀ k : Reg, k ≠ 15 → t.reg k = s.reg k) ∧
      (∀ i < n.toNat, ∀ j < 8, ∀ (c : Fin 64) (r : Fin 32),
        c.val = ((s.reg x).toNat % 64 + j) % 64 → r.val = ((s.reg y).toNat % 32 + i) % 32 →
        t.fbRd c r = (s.fbRd c r ^^ (s.memByte (s.i.toNat + i)).getLsbD (7 - j))) ∧
      (∀ (c : Fin 64) (r : Fin 32),
        (∀ i < n.toNat, ∀ j < 8, ¬ (c.val = ((s.reg x).toNat % 64 + j) % 64 ∧ r.val = ((s.reg y).toNat % 32 + i) % 32)) →
        t.fbRd c r = s.fbRd c r)) ∧
  (∀ (s : State) (w : Word), 0 < n.toNat → 0xFFF < s.i.toNat + n.toNat - 1 →
    w.toNat = 0xD000 + 256 * x.val + 16 * y.val + n.toNat → exec (.drw x y n) s = .next (faulted s .memOob w))

/-- The collision detector (R201): a DRW that runs writes 1 to VF iff at least one pixel went from on to off, and 0
otherwise; a pixel of the sprite goes from on to off exactly where it was on and the sprite bit is 1, and a sprite bit of 0
changes no pixel. -/
def Obligations.DrwCollidesIffAPixelGoesOff : Prop :=
  ∀ (s : State) (x y : Reg) (n : BitVec 4), (n.toNat = 0 ∨ s.i.toNat + n.toNat - 1 ≤ 0xFFF) →
    ∃ t, exec (.drw x y n) s = .next t ∧
      ((∃ c r, s.fbRd c r = true ∧ t.fbRd c r = false) → t.reg 15 = 1) ∧
      ((¬ ∃ c r, s.fbRd c r = true ∧ t.fbRd c r = false) → t.reg 15 = 0) ∧
      (∀ i < n.toNat, ∀ j < 8, ∀ (c : Fin 64) (r : Fin 32),
        c.val = ((s.reg x).toNat % 64 + j) % 64 → r.val = ((s.reg y).toNat % 32 + i) % 32 →
        (s.fbRd c r = true ∧ t.fbRd c r = false ↔
          s.fbRd c r = true ∧ (s.memByte (s.i.toNat + i)).getLsbD (7 - j) = true) ∧
        ((s.memByte (s.i.toNat + i)).getLsbD (7 - j) = false → t.fbRd c r = s.fbRd c r))

/-- Drawing one sprite twice at one place restores every pixel (R206, corner cases; x and y other than F, whose register the
first draw overwrites). The second draw sets VF iff the first turned a pixel on, which on a blank display is: iff the sprite
has a 1 bit. The spec's corner case says so of every display; log 17 says why that follows from R201 on a blank one only. -/
def Obligations.DrawingTwiceRestoresTheDisplay : Prop :=
  ∀ (s : State) (x y : Reg) (n : BitVec 4), x ≠ 15 → y ≠ 15 → (n.toNat = 0 ∨ s.i.toNat + n.toNat - 1 ≤ 0xFFF) →
    ∃ t u, exec (.drw x y n) s = .next t ∧ exec (.drw x y n) t = .next u ∧ (∀ c r, u.fbRd c r = s.fbRd c r) ∧
      ((∃ c r, s.fbRd c r = false ∧ t.fbRd c r = true) → u.reg 15 = 1) ∧
      ((¬ ∃ c r, s.fbRd c r = false ∧ t.fbRd c r = true) → u.reg 15 = 0) ∧
      ((∀ c r, s.fbRd c r = false) → (∃ i < n.toNat, s.memByte (s.i.toNat + i) ≠ 0) → u.reg 15 = 1)

/-! ## Keys and timers (44_keys_timers.md, 60_exceptions.md R314) -/

/-- SKP (R231) and SKNP (R232): with a key code in Vx they take one sample of `keys_in`, which becomes `key_prev`, and skip
when that key is, or is not, pressed in it; with Vx above 0xF they fault KEY_INDEX before the sample. Where the environment
has scripted the next sample, it is that one; how the model holds the port is the model's choice (log 6). -/
def Obligations.KeySkipsTestTheFreshSample : Prop :=
  ∀ x : Reg, EncodedAs (0xE09E + 256 * x.val) (.skp x) ∧ EncodedAs (0xE0A1 + 256 * x.val) (.sknp x) ∧
  (∀ s : State, (s.reg x).toNat ≤ 0xF → ∃ now, (∀ k rest, s.inputs.keys = k :: rest → now = k) ∧
    exec (.skp x) s = .next { s with
      pc := if now.getLsbD (s.reg x).toNat then s.pc + 2 else s.pc
      keyPrev := now
      inputs := { s.inputs with keys := s.inputs.keys.tail, draws := s.inputs.draws + 1 } } ∧
    exec (.sknp x) s = .next { s with
      pc := if now.getLsbD (s.reg x).toNat then s.pc else s.pc + 2
      keyPrev := now
      inputs := { s.inputs with keys := s.inputs.keys.tail, draws := s.inputs.draws + 1 } }) ∧
  (∀ (s : State) (w : Word), 0xF < (s.reg x).toNat → w.toNat = 0xE09E + 256 * x.val →
    exec (.skp x) s = .next (faulted s .keyIndex w)) ∧
  (∀ (s : State) (w : Word), 0xF < (s.reg x).toNat → w.toNat = 0xE0A1 + 256 * x.val →
    exec (.sknp x) s = .next (faulted s .keyIndex w))

/-- LD Vx, K (R230, R234): it takes one sample `now` of `keys_in`, which becomes `key_prev`. When k is the lowest key
pressed now and released at the last refresh, k goes to Vx; when there is none, `PC` goes back by 2 and no register
changes. How the model holds the port is the model's choice (log 6). -/
def Obligations.WaitForKeyWritesTheLowestNewKey : Prop :=
  ∀ x : Reg, EncodedAs (0xF00A + 256 * x.val) (.ldVxK x) ∧ ∀ s : State,
    ∃ t now, exec (.ldVxK x) s = .next t ∧ (∀ k rest, s.inputs.keys = k :: rest → now = k) ∧
      t = { s with v := t.v, pc := t.pc, keyPrev := now,
                   inputs := { s.inputs with keys := s.inputs.keys.tail, draws := s.inputs.draws + 1 } } ∧
      (∀ k : Fin 16, now.getLsbD k = true → s.keyPrev.getLsbD k = false →
        (∀ j < k.val, now.getLsbD j = true → s.keyPrev.getLsbD j = true) →
        t.pc = s.pc ∧ ∀ j : Reg, t.reg j = if j = x then BitVec.ofNat 8 k.val else s.reg j) ∧
      ((∀ k : Fin 16, now.getLsbD k = true → s.keyPrev.getLsbD k = true) →
        t.pc = s.pc - 2 ∧ ∀ j : Reg, t.reg j = s.reg j)

/-- LD Vx, DT (R233, R314): under `ceil` Vx takes DT; under `floor` it takes DT − 1 when DT and `dt_phase` are both above
0, and DT otherwise. -/
def Obligations.DelayReadbackRounds : Prop :=
  ∀ x : Reg, EncodedAs (0xF007 + 256 * x.val) (.ldVxDt x) ∧ ∀ s : State,
    (s.cfg.dtReadRounding = .ceil → WritesReg (.ldVxDt x) s x s.dt) ∧
    (s.cfg.dtReadRounding = .floor → 0 < s.dt.toNat ∧ 0 < s.dtPhase →
      WritesReg (.ldVxDt x) s x (BitVec.ofNat 8 (s.dt.toNat - 1))) ∧
    (s.cfg.dtReadRounding = .floor → ¬ (0 < s.dt.toNat ∧ 0 < s.dtPhase) → WritesReg (.ldVxDt x) s x s.dt)

/-- LD DT, Vx (R235) and LD ST, Vx (R236): the counter takes Vx and its phase restarts at 0; nothing else changes. -/
def Obligations.TimerLoadsRestartThePhase : Prop :=
  ∀ x : Reg, EncodedAs (0xF015 + 256 * x.val) (.ldDtVx x) ∧ EncodedAs (0xF018 + 256 * x.val) (.ldStVx x) ∧
    ∀ s : State, exec (.ldDtVx x) s = .next { s with dt := s.reg x, dtPhase := 0 } ∧
      exec (.ldStVx x) s = .next { s with st := s.reg x, stPhase := 0 }

/-! ## Address register and memory (45_index_memory.md, 20_memory.md) -/

/-- LD I, nnn (R260), ADD I, Vx (R261), LD F, Vx (R262): the new `I`, and for ADD I the flag in VF; nothing else changes. -/
def Obligations.IndexInstructionsWriteI : Prop :=
  (∀ nnn : Addr12, EncodedAs (0xA000 + nnn.toNat) (.ldI nnn) ∧ ∀ s : State,
    exec (.ldI nnn) s = .next { s with i := BitVec.ofNat 16 nnn.toNat }) ∧
  (∀ x : Reg, EncodedAs (0xF01E + 256 * x.val) (.addI x) ∧ ∀ s : State,
    ∃ t, exec (.addI x) s = .next t ∧
      t = { s with i := BitVec.ofNat 16 ((s.i.toNat + (s.reg x).toNat) % 4096), v := t.v } ∧
      ∀ j : Reg, t.reg j = if j = 15 then (if s.i.toNat + (s.reg x).toNat > 0xFFF then 1 else 0) else s.reg j) ∧
  (∀ x : Reg, EncodedAs (0xF029 + 256 * x.val) (.ldF x) ∧ ∀ s : State,
    exec (.ldF x) s =
      .next { s with i := BitVec.ofNat 16 ((s.cfg.fontOffset.toNat + 5 * ((s.reg x).toNat % 16)) % 4096) })

/-- LD B, Vx (R263): with I + 2 in bounds, the hundreds, tens and units digits of Vx go to I, I + 1 and I + 2; every byte
outside these three reads as before, and nothing else changes. Out of bounds it faults MEM_OOB and stores nothing. -/
def Obligations.BcdStoresThreeDigits : Prop :=
  ∀ x : Reg, EncodedAs (0xF033 + 256 * x.val) (.ldB x) ∧
  (∀ s : State, s.mem.wf → s.i.toNat + 2 ≤ 0xFFF →
    ∃ t, exec (.ldB x) s = .next t ∧ t = { s with mem := t.mem } ∧
      (t.memByte s.i.toNat).toNat = (s.reg x).toNat / 100 ∧
      (t.memByte (s.i.toNat + 1)).toNat = (s.reg x).toNat / 10 % 10 ∧
      (t.memByte (s.i.toNat + 2)).toNat = (s.reg x).toNat % 10 ∧
      ∀ a, a < s.i.toNat ∨ s.i.toNat + 3 ≤ a → t.memByte a = s.memByte a) ∧
  (∀ (s : State) (w : Word), 0xFFF < s.i.toNat + 2 → w.toNat = 0xF033 + 256 * x.val →
    exec (.ldB x) s = .next (faulted s .memOob w))

/-- LD [I], Vx (R264): with I + x in bounds, V0 to Vx go to I to I + x and I becomes (I + x + 1) & 0xFFF; every byte
outside these reads as before, and nothing else changes. Out of bounds it faults MEM_OOB and stores nothing. -/
def Obligations.StoreRegistersWritesTheBlock : Prop :=
  ∀ x : Reg, EncodedAs (0xF055 + 256 * x.val) (.ldMemVx x) ∧
  (∀ s : State, s.mem.wf → s.i.toNat + x.val ≤ 0xFFF →
    ∃ t, exec (.ldMemVx x) s = .next t ∧
      t = { s with mem := t.mem, i := BitVec.ofNat 16 ((s.i.toNat + x.val + 1) % 4096) } ∧
      (∀ k : Reg, k.val ≤ x.val → t.memByte (s.i.toNat + k.val) = s.reg k) ∧
      ∀ a, a < s.i.toNat ∨ s.i.toNat + x.val < a → t.memByte a = s.memByte a) ∧
  (∀ (s : State) (w : Word), 0xFFF < s.i.toNat + x.val → w.toNat = 0xF055 + 256 * x.val →
    exec (.ldMemVx x) s = .next (faulted s .memOob w))

/-- LD Vx, [I] (R265): with I + x in bounds, V0 to Vx take the bytes at I to I + x, the other registers keep their value,
and I becomes (I + x + 1) & 0xFFF; nothing else changes. Out of bounds it faults MEM_OOB and loads nothing. -/
def Obligations.LoadRegistersReadsTheBlock : Prop :=
  ∀ x : Reg, EncodedAs (0xF065 + 256 * x.val) (.ldVxMem x) ∧
  (∀ s : State, s.i.toNat + x.val ≤ 0xFFF →
    ∃ t, exec (.ldVxMem x) s = .next t ∧
      t = { s with v := t.v, i := BitVec.ofNat 16 ((s.i.toNat + x.val + 1) % 4096) } ∧
      ∀ k : Reg, t.reg k = if k.val ≤ x.val then s.memByte (s.i.toNat + k.val) else s.reg k) ∧
  (∀ (s : State) (w : Word), 0xFFF < s.i.toNat + x.val → w.toNat = 0xF065 + 256 * x.val →
    exec (.ldVxMem x) s = .next (faulted s .memOob w))

/-- Storing V0 to Vx and, with I set back, loading them again gives V0 to Vx the values they were stored with, whatever the
registers hold in between; the registers above Vx keep what they hold in between, and each of the two instructions leaves
(I + x + 1) & 0xFFF in `I` (C9, form a). The load changes nothing else. -/
def Obligations.StoreThenLoadRestoresRegisters : Prop :=
  ∀ (s : State) (x : Reg) (v : Vector Byte 16), s.mem.wf → s.i.toNat + x.val ≤ 0xFFF →
    ∃ t u, exec (.ldMemVx x) s = .next t ∧ exec (.ldVxMem x) { t with i := s.i, v := v } = .next u ∧
      t.i = BitVec.ofNat 16 ((s.i.toNat + x.val + 1) % 4096) ∧ u = { t with v := u.v } ∧
      ∀ k : Reg, u.reg k = if k.val ≤ x.val then s.reg k else v[k]

/-- A store is seen by the next fetch of its address (R72): after LD [I], Vx the word fetched at the address of a stored
byte has that byte as its high byte, and the word fetched one address below has it as its low byte; after LD B, Vx the same
of the three digits. -/
def Obligations.StoreIsSeenByTheNextFetch : Prop :=
  (∀ (s : State) (x : Reg), s.mem.wf → s.i.toNat + x.val ≤ 0xFFF →
    ∃ t, exec (.ldMemVx x) s = .next t ∧ ∀ (k : Reg) (p : Word), k.val ≤ x.val →
      (p.toNat = s.i.toNat + k.val → ({ t with pc := p } : State).fetchWord.toNat / 256 = (s.reg k).toNat) ∧
      (p.toNat + 1 = s.i.toNat + k.val → ({ t with pc := p } : State).fetchWord.toNat % 256 = (s.reg k).toNat)) ∧
  (∀ (s : State) (x : Reg), s.mem.wf → s.i.toNat + 2 ≤ 0xFFF →
    ∃ t, exec (.ldB x) s = .next t ∧ ∀ (k : Fin 3) (p : Word),
      (p.toNat = s.i.toNat + k.val →
        ({ t with pc := p } : State).fetchWord.toNat / 256 = (s.reg x).toNat / 10 ^ (2 - k.val) % 10) ∧
      (p.toNat + 1 = s.i.toNat + k.val →
        ({ t with pc := p } : State).fetchWord.toNat % 256 = (s.reg x).toNat / 10 ^ (2 - k.val) % 10))

/-! ## Who writes what, over all instructions -/

/-- Memory is written by LD B and LD [I] alone (R64), the stack and `SP` by CALL and RET alone (R26), the framebuffer by CLS
and DRW alone (R30), and `key_prev` by SKP, SKNP and LD Vx, K alone (R31). -/
def Obligations.MemoryStackDisplayAndKeysHaveTheirWriters : Prop :=
  ∀ (i : Instr) (s : State), ∃ t, exec i s = .next t ∧
    ((∀ x, i ≠ .ldB x ∧ i ≠ .ldMemVx x) → t.mem = s.mem) ∧
    (i ≠ .ret → (∀ nnn, i ≠ .call nnn) → t.stack = s.stack ∧ t.sp = s.sp) ∧
    (i ≠ .cls → (∀ x y n, i ≠ .drw x y n) → t.fb = s.fb) ∧
    ((∀ x, i ≠ .skp x ∧ i ≠ .sknp x ∧ i ≠ .ldVxK x) → t.keyPrev = s.keyPrev)

/-- VF is written, other than as a named destination, by the ten flag writers of R37 alone; `I` by its five writers alone
(R24); DT and `dt_phase` by LD DT alone and ST and `st_phase` by LD ST alone (R27, R28). -/
def Obligations.FlagIndexAndTimersHaveTheirWriters : Prop :=
  ∀ (i : Instr) (s : State), ∃ t, exec i s = .next t ∧
    ((match i with
      | .orR _ _ => False | .andR _ _ => False | .xorR _ _ => False | .addR _ _ => False | .subR _ _ => False
      | .subnR _ _ => False | .shrR _ _ => False | .shlR _ _ => False | .drw _ _ _ => False | .addI _ => False
      | .ldK x _ => x ≠ 15 | .ldR x _ => x ≠ 15 | .addK x _ => x ≠ 15 | .rnd x _ => x ≠ 15
      | .ldVxDt x => x ≠ 15 | .ldVxK x => x ≠ 15 | .ldVxMem x => x ≠ 15
      | _ => True) → t.reg 15 = s.reg 15) ∧
    ((∀ nnn x, i ≠ .ldI nnn ∧ i ≠ .addI x ∧ i ≠ .ldF x ∧ i ≠ .ldMemVx x ∧ i ≠ .ldVxMem x) → t.i = s.i) ∧
    ((∀ x, i ≠ .ldDtVx x) → t.dt = s.dt ∧ t.dtPhase = s.dtPhase) ∧
    ((∀ x, i ≠ .ldStVx x) → t.st = s.st ∧ t.stPhase = s.stPhase)

/-- No instruction writes the configuration (R36), `cpu_cnt` (R32) or `refresh_cnt` (R33), raises `present_req` itself
(R208), or touches the fault record and `run_state` other than by faulting (R34, R35, R38). -/
def Obligations.NoInstructionWritesTheClocking : Prop :=
  ∀ (i : Instr) (s : State), ∃ t, exec i s = .next t ∧
    t.cfg = s.cfg ∧ t.cpuCnt = s.cpuCnt ∧ t.refreshCnt = s.refreshCnt ∧ t.presentReq = s.presentReq ∧
    t.inputs.quit = s.inputs.quit ∧
    (ownFault i s = none → t.runState = s.runState ∧ t.faultCode = s.faultCode ∧ t.faultPc = s.faultPc ∧
      t.faultWord = s.faultWord)

/-- An instruction faults exactly under its condition of R300, and then with the code of R300, the address of the
instruction, its word, and no other change (R124, R301). -/
def Obligations.InstructionsFaultExactlyOnTheirCondition : Prop :=
  ∀ (i : Instr) (s : State), s.runState = .running →
    (∀ code, ownFault i s = some code → exec i s = .next (faulted s code (encode i))) ∧
    (ownFault i s = none → ∃ t, exec i s = .next t ∧ t.runState = .running)

/-- The sound clock influences no instruction but its own load: two states that differ in ST and `st_phase` alone run alike
(R28, R233). -/
def Obligations.SoundClockIsInvisibleToPrograms : Prop :=
  ∀ (i : Instr) (s t : State) (b : Byte) (p : Nat), (∀ x, i ≠ .ldStVx x) → exec i s = .next t →
    exec i { s with st := b, stPhase := p } = .next { t with st := b, stPhase := p }

/-- The environment reaches a program through SKP, SKNP, LD Vx, K and RND alone (R42, R182, R230): every other instruction
takes no sample, and two states that differ in the inputs alone run alike under it. -/
def Obligations.InputsReachOnlyTheirInstructions : Prop :=
  ∀ (i : Instr) (s t : State) (e : Inputs), (∀ x kk, i ≠ .skp x ∧ i ≠ .sknp x ∧ i ≠ .ldVxK x ∧ i ≠ .rnd x kk) →
    exec i s = .next t → t.inputs = s.inputs ∧ exec i { s with inputs := e } = .next { t with inputs := e }

/-! ## The cycle (40_cycle.md, 60_exceptions.md) -/

/-- A step that is a CPU tick runs the decoded instruction (R120, R311): after the countdowns and the prescaler, with `PC`
advanced by 2, then `PresentLogic` when it raised no fault, then the sampling of `quit_in`. -/
def Obligations.StepRunsTheDecodedInstruction : Prop :=
  ∀ (s t : State) (i : Instr), TickFetches s → decode s.fetchWord = .instr i →
    exec i { s.beginCycle with pc := s.pc + 2 } = .next t → step s = .next (t.afterExecute i).sampleQuit

/-- The fetch faults (R121, R303): on a CPU tick an odd `PC` faults PC_MISALIGNED, and an even `PC` above 0xFFE faults
PC_OOB; `PC` stays, and no word is valid. -/
def Obligations.FetchFaultsOnABadPc : Prop :=
  ∀ s : State, s.runState = .running → s.cpuCnt + 1 = s.cfg.cpuDiv →
    (s.pc.toNat % 2 = 1 → step s = .next { s.beginCycle with
      runState := .halted, faultCode := .pcMisaligned, faultPc := s.pc, faultWord := none }) ∧
    (s.pc.toNat % 2 = 0 → 0xFFE < s.pc.toNat → step s = .next { s.beginCycle with
      runState := .halted, faultCode := .pcOob, faultPc := s.pc, faultWord := none })

/-- A CPU tick that fetches a word the decoder rejects faults UNKNOWN_OPCODE at that address with that word (R120, R300). -/
def Obligations.UnknownOpcodeHalts : Prop :=
  ∀ (s : State) (w : Word), TickFetches s → s.fetchWord = w → (¬ ∃ i, decode w = .instr i) →
    step s = .next { s.beginCycle with
      runState := .halted, faultCode := .unknownOpcode, faultPc := s.pc, faultWord := some w }

/-- Faults are precise (R301, R302): a step that leaves the core HALTED changed nothing but the countdowns and the
prescaler of its own master cycle and the level of `present_req`, which each master cycle lowers (log 9); it latched a code, the address in `PC` and, past the fetch checks, the word fetched there;
and `quit_in` was not sampled. -/
def Obligations.FaultsArePrecise : Prop :=
  ∀ s t : State, s.runState = .running → step s = .next t → t.runState = .halted →
    s.cpuCnt + 1 = s.cfg.cpuDiv ∧ t.faultCode ≠ .none ∧
    t = { s.beginCycle with runState := .halted, faultCode := t.faultCode, faultPc := s.pc
                            faultWord := if t.faultCode = .pcMisaligned ∨ t.faultCode = .pcOob then none
                                         else some s.fetchWord }

/-- HALTED and STOPPED are frozen for good (R301 step 3, R316, R359): after any number of master cycles the state is the
same, with `present_req` down (log 9) and the sound off. -/
def Obligations.HaltedAndStoppedAreFrozen : Prop :=
  ∀ (s : State) (n : Nat), s.runState ≠ .running →
    Host.Core.run core (n + 1) s = .next { s with presentReq := false } ∧ s.soundOn = false

/-- Every master cycle has a next state: no data, no opcode and no state makes the model stop. -/
def Obligations.EveryStepAnswersANextState : Prop := ∀ s : State, ∃ t, step s = .next t

/-- Quit (R316): a CPU tick whose instruction cycle completes without a fault samples `quit_in` once; 1 stops the core
with no fault latched, 0 leaves it running. How the model holds the port is the model's choice (log 8). -/
def Obligations.QuitStopsAfterACompletedInstruction : Prop :=
  ∀ (s t : State) (q : Bool) (rest : List Bool), s.runState = .running → s.cpuCnt + 1 = s.cfg.cpuDiv →
    s.inputs.quit = q :: rest → step s = .next t → t.runState ≠ .halted →
    t.runState = (if q then .stopped else .running) ∧ t.inputs.quit = rest ∧ t.faultCode = s.faultCode ∧
      t.faultPc = s.faultPc ∧ t.faultWord = s.faultWord

/-- The countdown stage, applied e times to a counter v with phase 0, leaves v − ⌊e / TIMER_DIV⌋, and 0 at least: the
arithmetic of the law of R310 (which the spec marks as its own inference). `TimersFollowTheirLoads` says the law of master
cycles. -/
def Obligations.CountdownFollowsTheDivisionLaw : Prop :=
  ∀ (div : Nat) (v : Byte) (e : Nat), 1 ≤ div →
    ((countdown div)^[e] (v, 0)).1.toNat = v.toNat - e / div

/-- Between CPU ticks nothing but the countdowns and the prescaler moves (R309, R310, R311): n master cycles that do not
reach a CPU tick leave every other field as it was, but for the level of `present_req`, which falls in the first of them
(log 9); `cpu_cnt` counts them, and DT and ST have lost one count for each TIMER_DIV cycles of their phase, down to 0. -/
def Obligations.IdleCyclesOnlyCountDown : Prop :=
  ∀ (s : State) (n : Nat), s.Inv → s.runState = .running → s.cpuCnt + n < s.cfg.cpuDiv →
    ∃ t, Host.Core.run core n s = .next t ∧
      t = { s with dt := t.dt, dtPhase := t.dtPhase, st := t.st, stPhase := t.stPhase, cpuCnt := s.cpuCnt + n
                   presentReq := t.presentReq } ∧
      t.dt.toNat = s.dt.toNat - (s.dtPhase + n) / s.cfg.timerDiv ∧
      t.st.toNat = s.st.toNat - (s.stPhase + n) / s.cfg.timerDiv ∧ (0 < n → t.presentReq = false)

/-- The present request (R203, R204): on a CPU tick that completes without a fault, lazy mode pulses exactly after CLS and
DRW and leaves `refresh_cnt`; otherwise the cycle is counted, and the REFRESH_K-th pulses and restarts the count. -/
def Obligations.PresentRequestFollowsTheMode : Prop :=
  ∀ (s t : State) (i : Instr), TickFetches s → decode s.fetchWord = .instr i → step s = .next t →
    t.runState ≠ .halted →
    (s.cfg.lazyRender = true → t.refreshCnt = s.refreshCnt ∧
      (t.presentReq = true ↔ i = .cls ∨ ∃ x y n, i = .drw x y n)) ∧
    (s.cfg.lazyRender = false → s.refreshCnt + 1 = s.cfg.refreshK → t.refreshCnt = 0 ∧ t.presentReq = true) ∧
    (s.cfg.lazyRender = false → s.refreshCnt + 1 ≠ s.cfg.refreshK →
      t.refreshCnt = s.refreshCnt + 1 ∧ t.presentReq = false)

/-- The sound output (R313): on iff the core is RUNNING and ST is not 0. -/
def Obligations.SoundIsOnIffRunningAndArmed : Prop :=
  ∀ s : State, s.soundOn = true ↔ s.runState = .running ∧ s.st ≠ 0

/-- No step changes the configuration (R354). -/
def Obligations.ConfigurationNeverChanges : Prop := ∀ s t : State, step s = .next t → t.cfg = s.cfg

/-- The numbers of the fault codes (R300). -/
def Obligations.FaultCodesHaveTheirNumbers : Prop :=
  FaultCode.none.number = 0 ∧ FaultCode.unknownOpcode.number = 1 ∧ FaultCode.stackOverflow.number = 2 ∧
  FaultCode.stackUnderflow.number = 3 ∧ FaultCode.memOob.number = 4 ∧ FaultCode.pcMisaligned.number = 5 ∧
  FaultCode.pcOob.number = 6 ∧ FaultCode.keyIndex.number = 7

/-! ## Reset and invariants (70_reset_and_hazards.md, 10_state.md) -/

/-- Initialization fails exactly when a check of R351 fails: the ROM or the font does not fit, they share an address, or a
divisor is below 1. -/
def Obligations.InitializationFailsExactlyOnR351 : Prop :=
  ∀ (cfg : Configuration) (rom : List Byte), State.initialize cfg rom = none ↔
    cfg.loadOffset.toNat + rom.length > 4096 ∨ cfg.fontOffset.toNat + 80 > 4096 ∨
    (∃ a, (cfg.loadOffset.toNat ≤ a ∧ a < cfg.loadOffset.toNat + rom.length) ∧
      (cfg.fontOffset.toNat ≤ a ∧ a < cfg.fontOffset.toNat + 80)) ∨
    cfg.cpuDiv < 1 ∨ cfg.timerDiv < 1 ∨ cfg.refreshK < 1

/-- What initialization leaves (R40, R350, R352, R67): memory holds the ROM at LOAD_OFFSET, the font at FONT_OFFSET and 0
everywhere else, and every other piece of the spec's state has its reset value. -/
def Obligations.InitializationLeavesTheResetValues : Prop :=
  ∀ (cfg : Configuration) (rom : List Byte) (s : State), State.initialize cfg rom = some s →
    (∀ k, (h : k < rom.length) → s.memByte (cfg.loadOffset.toNat + k) = rom[k]) ∧
    (∀ k : Fin 80, s.memByte (cfg.fontOffset.toNat + k.val) = cfg.fontData[k]) ∧
    (∀ a, ¬ (cfg.loadOffset.toNat ≤ a ∧ a < cfg.loadOffset.toNat + rom.length) →
      ¬ (cfg.fontOffset.toNat ≤ a ∧ a < cfg.fontOffset.toNat + 80) → s.memByte a = 0) ∧
    (∀ c r, s.fbRd c r = false) ∧ s.dt = 0 ∧ s.dtPhase = 0 ∧ s.st = 0 ∧ s.stPhase = 0 ∧ (∀ x, s.reg x = 0) ∧ s.i = 0 ∧
    s.pc.toNat = cfg.loadOffset.toNat ∧ s.sp.val = 0 ∧ (∀ k : Fin 16, s.stack[k] = 0) ∧ s.keyPrev = 0 ∧
    s.cpuCnt = 0 ∧ s.refreshCnt = 0 ∧ s.runState = .running ∧ s.faultCode = .none ∧ s.faultPc = 0 ∧
    s.faultWord = none ∧ s.cfg = cfg

/-- The invariant holds after every initialization that succeeds. -/
def Obligations.InitializationEstablishesTheInvariant : Prop :=
  ∀ (cfg : Configuration) (rom : List Byte) (s : State), State.initialize cfg rom = some s → s.Inv

/-- The invariant holds in `State.reset`, whose OPEN configuration values are the model's choice (log 1). -/
def Obligations.ResetSatisfiesTheInvariant : Prop := State.reset.Inv

/-- Every step keeps the invariant (`State.Inv`): memory canonical and inside its 4096 bytes, `I` within 12 bits (R24), `PC`
at most 0x1002 (R127), stack entries even and at most 0x1000 (R142), the counters within their ranges (R27, R28, R32, R33),
and the fault record latched exactly in HALTED (R35, R301). The bounds on `PC` and on stack entries are sentences the spec
marks as its own inferences. -/
def Obligations.EveryStepKeepsTheInvariant : Prop :=
  ∀ s t : State, s.Inv → step s = .next t → t.Inv

/-- The loader of this model (log 3, 4): placing a word at `PC` makes the next step of a RUNNING core a CPU tick that
fetches that word, and every other byte of memory reads as before. -/
def Obligations.PlacedWordIsFetchedNext : Prop :=
  ∀ (s : State) (w : Nat), s.Inv → s.runState = .running → s.pc.toNat % 2 = 0 → s.pc.toNat ≤ 0xFFE → w < 65536 →
    TickFetches (s.withFetchWord 16 w) ∧ (s.withFetchWord 16 w).fetchWord.toNat = w ∧
      (s.withFetchWord 16 w).mem.wf ∧
      ∀ a, a ≠ s.pc.toNat → a ≠ s.pc.toNat + 1 → (s.withFetchWord 16 w).memByte a = s.memByte a

/-! ## The countdowns in every master cycle (60_exceptions.md R309 to R311) -/

/-- The start of a master cycle, which the statements about CPU ticks compare with: both counters take one cycle of their
countdown as R310 writes it, the prescaler counts up or returns to 0 (R309), the pulse of `present_req` ends (log 9), and
nothing else changes. A RUNNING master cycle that is no CPU tick is this and no more (R311). -/
def Obligations.MasterCycleStartsWithTheCountdowns : Prop :=
  (∀ s : State, s.beginCycle =
    { s with dt := (countdown s.cfg.timerDiv (s.dt, s.dtPhase)).1
             dtPhase := (countdown s.cfg.timerDiv (s.dt, s.dtPhase)).2
             st := (countdown s.cfg.timerDiv (s.st, s.stPhase)).1
             stPhase := (countdown s.cfg.timerDiv (s.st, s.stPhase)).2
             cpuCnt := if s.cpuCnt + 1 = s.cfg.cpuDiv then 0 else s.cpuCnt + 1
             presentReq := false }) ∧
  (∀ (div : Nat) (v : Byte) (phase : Nat),
    (v = 0 → countdown div (v, phase) = (v, phase)) ∧
    (v ≠ 0 → phase + 1 = div → countdown div (v, phase) = (v - 1, 0)) ∧
    (v ≠ 0 → phase + 1 ≠ div → countdown div (v, phase) = (v, phase + 1))) ∧
  (∀ s : State, s.runState = .running → s.cpuCnt + 1 ≠ s.cfg.cpuDiv → step s = .next s.beginCycle)

/-- Every master cycle of a RUNNING core, CPU tick or not and faulting or not, counts both timers down once and the
prescaler up once (R309 to R311); only the load of a timer in that cycle's instruction replaces its count, and then with Vx
and phase 0, not decremented in this cycle (R235, R236, R311). -/
def Obligations.EveryMasterCycleCountsDown : Prop :=
  ∀ s t : State, s.runState = .running → step s = .next t →
    ((∀ x, ¬ TickRuns s (.ldDtVx x)) → (t.dt, t.dtPhase) = countdown s.cfg.timerDiv (s.dt, s.dtPhase)) ∧
    ((∀ x, ¬ TickRuns s (.ldStVx x)) → (t.st, t.stPhase) = countdown s.cfg.timerDiv (s.st, s.stPhase)) ∧
    (∀ x, TickRuns s (.ldDtVx x) → t.dt = s.reg x ∧ t.dtPhase = 0) ∧
    (∀ x, TickRuns s (.ldStVx x) → t.st = s.reg x ∧ t.stPhase = 0) ∧
    t.cpuCnt = if s.cpuCnt + 1 = s.cfg.cpuDiv then 0 else s.cpuCnt + 1

/-- The law of R310 over master cycles (which the spec marks as its own inference): along any run of a RUNNING core, e master
cycles after the cycle that loads v into DT, or into ST, the counter is v − ⌊e / TIMER_DIV⌋, and 0 at least, whatever
instructions run in between, so long as none of them loads that timer again. -/
def Obligations.TimersFollowTheirLoads : Prop :=
  ∀ (path : Nat → State) (x : Reg) (e : Nat), 1 ≤ (path 0).cfg.timerDiv →
    (∀ k ≤ e, (path k).runState = .running ∧ step (path k) = .next (path (k + 1))) →
    (TickRuns (path 0) (.ldDtVx x) → (∀ k, 1 ≤ k → k ≤ e → ∀ y, ¬ TickRuns (path k) (.ldDtVx y)) →
      (path (e + 1)).dt.toNat = ((path 0).reg x).toNat - e / (path 0).cfg.timerDiv) ∧
    (TickRuns (path 0) (.ldStVx x) → (∀ k, 1 ≤ k → k ≤ e → ∀ y, ¬ TickRuns (path k) (.ldStVx y)) →
      (path (e + 1)).st.toNat = ((path 0).reg x).toNat - e / (path 0).cfg.timerDiv)
end

