-- ==== Sys2Proof/Laws/Encoding.lean ====
section
/-! SUPPORT. The fields of the encoded layouts (spec 30_encoding.md R91, R92), and a word from its fields. -/

namespace Sys2Proof

/-! The value of each layout as a number, and of each field as a quotient and remainder. -/

theorem toNat_formA (op : BitVec 4) (nnn : Addr12) : (formA op nnn).toNat = 4096 * op.toNat + nnn.toNat := by
  have := nnn.isLt
  simp only [formA, BitVec.toNat_append]
  rw [← Nat.shiftLeft_add_eq_or_of_lt this, Nat.shiftLeft_eq]; omega

theorem toNat_formRK (op : BitVec 4) (x : Reg) (kk : Byte) :
    (formRK op x kk).toNat = 4096 * op.toNat + 256 * x.val + kk.toNat := by
  have := kk.isLt; have hx : (BitVec.ofFin (w := 4) x).toNat < 2 ^ 4 := (BitVec.ofFin (w := 4) x).isLt
  simp only [formRK, BitVec.toNat_append]
  rw [← Nat.shiftLeft_add_eq_or_of_lt this, ← Nat.shiftLeft_add_eq_or_of_lt hx, Nat.shiftLeft_eq, Nat.shiftLeft_eq]
  simp only [BitVec.toNat_ofFin]; omega

theorem toNat_formRRN (op : BitVec 4) (x y : Reg) (n : BitVec 4) :
    (formRRN op x y n).toNat = 4096 * op.toNat + 256 * x.val + 16 * y.val + n.toNat := by
  have := n.isLt
  have hx : (BitVec.ofFin (w := 4) x).toNat < 2 ^ 4 := (BitVec.ofFin (w := 4) x).isLt
  have hy : (BitVec.ofFin (w := 4) y).toNat < 2 ^ 4 := (BitVec.ofFin (w := 4) y).isLt
  simp only [formRRN, BitVec.toNat_append]
  rw [← Nat.shiftLeft_add_eq_or_of_lt this, ← Nat.shiftLeft_add_eq_or_of_lt hx, ← Nat.shiftLeft_add_eq_or_of_lt hy,
    Nat.shiftLeft_eq, Nat.shiftLeft_eq, Nat.shiftLeft_eq]
  simp only [BitVec.toNat_ofFin]; omega

theorem fieldOp_eq (w : Word) : fieldOp w = w.toNat / 4096 := by
  have := w.isLt
  simp only [fieldOp, BitVec.extractLsb'_toNat, Nat.shiftRight_eq_div_pow]; omega

theorem fieldX_val (w : Word) : (fieldX w).val = w.toNat / 256 % 16 := by
  simp only [fieldX, BitVec.val_toFin, BitVec.extractLsb'_toNat, Nat.shiftRight_eq_div_pow]

theorem fieldY_val (w : Word) : (fieldY w).val = w.toNat / 16 % 16 := by
  simp only [fieldY, BitVec.val_toFin, BitVec.extractLsb'_toNat, Nat.shiftRight_eq_div_pow]

theorem fieldN_toNat (w : Word) : (fieldN w).toNat = w.toNat % 16 := by
  simp only [fieldN, BitVec.extractLsb'_toNat, Nat.shiftRight_eq_div_pow]; omega

theorem fieldKK_toNat (w : Word) : (fieldKK w).toNat = w.toNat % 256 := by
  simp only [fieldKK, BitVec.extractLsb'_toNat, Nat.shiftRight_eq_div_pow]; omega

theorem fieldNNN_toNat (w : Word) : (fieldNNN w).toNat = w.toNat % 4096 := by
  simp only [fieldNNN, BitVec.extractLsb'_toNat, Nat.shiftRight_eq_div_pow]; omega

/-! The fields of a layout are the operands it was made of. -/

@[simp] theorem fieldOp_formA (op : BitVec 4) (nnn : Addr12) : fieldOp (formA op nnn) = op.toNat := by
  have := nnn.isLt; rw [fieldOp_eq, toNat_formA]; omega

@[simp] theorem fieldNNN_formA (op : BitVec 4) (nnn : Addr12) : fieldNNN (formA op nnn) = nnn := by
  have := nnn.isLt; apply BitVec.eq_of_toNat_eq; rw [fieldNNN_toNat, toNat_formA]; omega

@[simp] theorem fieldOp_formRK (op : BitVec 4) (x : Reg) (kk : Byte) : fieldOp (formRK op x kk) = op.toNat := by
  have := kk.isLt; rw [fieldOp_eq, toNat_formRK]; omega

@[simp] theorem fieldX_formRK (op : BitVec 4) (x : Reg) (kk : Byte) : fieldX (formRK op x kk) = x := by
  have := kk.isLt; apply Fin.ext; rw [fieldX_val, toNat_formRK]; omega

@[simp] theorem fieldKK_formRK (op : BitVec 4) (x : Reg) (kk : Byte) : fieldKK (formRK op x kk) = kk := by
  have := kk.isLt; apply BitVec.eq_of_toNat_eq; rw [fieldKK_toNat, toNat_formRK]; omega

@[simp] theorem fieldOp_formRRN (op : BitVec 4) (x y : Reg) (n : BitVec 4) : fieldOp (formRRN op x y n) = op.toNat := by
  have := n.isLt; rw [fieldOp_eq, toNat_formRRN]; omega

@[simp] theorem fieldX_formRRN (op : BitVec 4) (x y : Reg) (n : BitVec 4) : fieldX (formRRN op x y n) = x := by
  have := n.isLt; apply Fin.ext; rw [fieldX_val, toNat_formRRN]; omega

@[simp] theorem fieldY_formRRN (op : BitVec 4) (x y : Reg) (n : BitVec 4) : fieldY (formRRN op x y n) = y := by
  have := n.isLt; apply Fin.ext; rw [fieldY_val, toNat_formRRN]; omega

@[simp] theorem fieldN_formRRN (op : BitVec 4) (x y : Reg) (n : BitVec 4) : fieldN (formRRN op x y n) = n := by
  have := n.isLt; apply BitVec.eq_of_toNat_eq; rw [fieldN_toNat, toNat_formRRN]; omega

/-! A word is the layout of its fields. -/

theorem formA_fields (w : Word) {op : BitVec 4} (h : fieldOp w = op.toNat) : formA op (fieldNNN w) = w := by
  have := w.isLt; apply BitVec.eq_of_toNat_eq
  rw [toNat_formA, fieldNNN_toNat, ← h, fieldOp_eq]; omega

theorem formRK_fields (w : Word) {op : BitVec 4} (h : fieldOp w = op.toNat) : formRK op (fieldX w) (fieldKK w) = w := by
  have := w.isLt; apply BitVec.eq_of_toNat_eq
  rw [toNat_formRK, fieldX_val, fieldKK_toNat, ← h, fieldOp_eq]; omega

theorem formRRN_fields (w : Word) {op : BitVec 4} (h : fieldOp w = op.toNat) :
    formRRN op (fieldX w) (fieldY w) (fieldN w) = w := by
  have := w.isLt; apply BitVec.eq_of_toNat_eq
  rw [toNat_formRRN, fieldX_val, fieldY_val, fieldN_toNat, ← h, fieldOp_eq]; omega

/-- The two bytes of a word in memory make the word (R62). -/
@[simp] theorem wordOfBytes_bytes (w : Word) : wordOfBytes (highByte w) (lowByte w) = w := by
  have := w.isLt
  have hl : (lowByte w).toNat < 2 ^ 8 := (lowByte w).isLt
  apply BitVec.eq_of_toNat_eq
  simp only [wordOfBytes, BitVec.toNat_append]
  rw [← Nat.shiftLeft_add_eq_or_of_lt hl, Nat.shiftLeft_eq]
  simp only [highByte, lowByte, BitVec.extractLsb'_toNat, Nat.shiftRight_eq_div_pow]; omega

end Sys2Proof
end

