-- ==== Sys2Proof/Laws/Framebuffer.lean ====
section
/-! SUPPORT. The laws of the framebuffer: pixel reads after writes, and what the sprite blit does to each pixel and when
it collides (spec 43_display.md R200, R201). -/

namespace Sys2Proof.Machine

@[simp] theorem Framebuffer.pixel_blank (c : Fin 64) (r : Fin 32) : Framebuffer.blank.pixel c r = false := by
  simp [Framebuffer.blank, Framebuffer.pixel]

/-- A pixel read after a pixel write. -/
theorem Framebuffer.pixel_setPixel (fb : Framebuffer) (c c' : Fin 64) (r r' : Fin 32) (b : Bool) :
    (fb.setPixel c r b).pixel c' r' = if c' = c ∧ r' = r then b else fb.pixel c' r' := by
  have hv : ∀ {n : Nat} {a b : Fin n}, b ≠ a → a.val ≠ b.val := fun h e => h (Fin.ext e.symm)
  by_cases hc : c' = c
  · subst hc
    by_cases hr : r' = r
    · subst hr; simp [Framebuffer.pixel, Framebuffer.setPixel]
    · simp [Framebuffer.pixel, Framebuffer.setPixel, hr, hv hr]
  · simp [Framebuffer.pixel, Framebuffer.setPixel, hc, hv hc]

/-- Two framebuffers with the same pixels are the same. -/
theorem Framebuffer.ext_pixel {fb gb : Framebuffer} (h : ∀ c r, fb.pixel c r = gb.pixel c r) : fb = gb := by
  apply Vector.ext; intro c hc
  apply Vector.ext; intro r hr
  exact h ⟨c, hc⟩ ⟨r, hr⟩

/-- Columns of one sprite byte are distinct: 8 columns fit in the width of 64 (R200). -/
theorem column_injective {cx j j' : Nat} (hj : j < 8) (hj' : j' < 8)
    (h : wrapColumn (cx + j) = wrapColumn (cx + j')) : j = j' := by
  have := congrArg Fin.val h; simp only [wrapColumn] at this; omega

/-- Rows of one sprite are distinct: up to 32 rows fit in the height of 32 (R200). -/
theorem row_injective {cy i i' : Nat} (hi : i < 32) (hi' : i' < 32)
    (h : wrapRow (cy + i) = wrapRow (cy + i')) : i = i' := by
  have := congrArg Fin.val h; simp only [wrapRow] at this; omega

/-- Blitting a list of distinct columns of one sprite byte. -/
theorem blitColumns_spec (cx : Nat) (r : Fin 32) (byte : Byte) : ∀ (js : List Nat) (acc : Framebuffer × Bool),
    (∀ j ∈ js, j < 8) → js.Nodup →
    let res := js.foldl (fun a j => blitPixel (wrapColumn (cx + j)) r (spriteBit byte j) a) acc
    (∀ j ∈ js, res.1.pixel (wrapColumn (cx + j)) r = (acc.1.pixel (wrapColumn (cx + j)) r ^^ spriteBit byte j)) ∧
    (∀ c r', (r' = r → ∀ j ∈ js, c ≠ wrapColumn (cx + j)) → res.1.pixel c r' = acc.1.pixel c r') ∧
    (res.2 = true ↔ acc.2 = true ∨ ∃ j ∈ js, acc.1.pixel (wrapColumn (cx + j)) r = true ∧ spriteBit byte j = true) := by
  intro js
  induction js with
  | nil => intro acc _ _; simp
  | cons j js ih =>
    intro acc hlt hnd
    obtain ⟨hj, hnd'⟩ := List.nodup_cons.mp hnd
    have hne : ∀ j' ∈ js, wrapColumn (cx + j') ≠ wrapColumn (cx + j) := fun j' h' e =>
      hj (column_injective (hlt j' (List.mem_cons_of_mem _ h')) (hlt j List.mem_cons_self) e ▸ h')
    obtain ⟨h1, h2, h3⟩ := ih (blitPixel (wrapColumn (cx + j)) r (spriteBit byte j) acc)
      (fun j' h' => hlt j' (List.mem_cons_of_mem _ h')) hnd'
    refine ⟨fun j' hj' => ?_, fun c r' hcr => ?_, ?_⟩
    · rcases List.mem_cons.mp hj' with rfl | hj'
      · rw [List.foldl_cons, h2 _ _ fun _ j'' h'' => (hne j'' h'').symm]
        simp [blitPixel, Framebuffer.pixel_setPixel]
      · rw [List.foldl_cons, h1 j' hj']
        simp [blitPixel, Framebuffer.pixel_setPixel, hne j' hj']
    · rw [List.foldl_cons, h2 c r' fun e j'' h'' => hcr e j'' (List.mem_cons_of_mem _ h'')]
      have : ¬ (c = wrapColumn (cx + j) ∧ r' = r) := fun e => hcr e.2 j List.mem_cons_self e.1
      simp [blitPixel, Framebuffer.pixel_setPixel, this]
    · rw [List.foldl_cons, h3]
      simp only [blitPixel, Bool.or_eq_true, Bool.and_eq_true, List.mem_cons, exists_eq_or_imp, or_assoc]
      refine or_congr_right (or_congr_right (exists_congr fun j' => and_congr_right fun h' => ?_))
      simp [Framebuffer.pixel_setPixel, hne j' h']

/-- Blitting one sprite byte. -/
theorem blitRow_spec (cx : Nat) (r : Fin 32) (byte : Byte) (acc : Framebuffer × Bool) :
    (∀ j < 8, (blitRow cx r byte acc).1.pixel (wrapColumn (cx + j)) r =
      (acc.1.pixel (wrapColumn (cx + j)) r ^^ spriteBit byte j)) ∧
    (∀ c r', (r' = r → ∀ j < 8, c ≠ wrapColumn (cx + j)) → (blitRow cx r byte acc).1.pixel c r' = acc.1.pixel c r') ∧
    ((blitRow cx r byte acc).2 = true ↔
      acc.2 = true ∨ ∃ j < 8, acc.1.pixel (wrapColumn (cx + j)) r = true ∧ spriteBit byte j = true) := by
  simpa [List.mem_range, blitRow] using
    blitColumns_spec cx r byte (List.range 8) acc (fun j h => List.mem_range.mp h) List.nodup_range

/-- Blitting the rows of a sprite of at most 32 bytes. -/
theorem blitRows_spec (cx : Nat) : ∀ (bytes : List Byte) (cy : Nat) (acc : Framebuffer × Bool), bytes.length ≤ 32 →
    (∀ i, (hi : i < bytes.length) → ∀ j < 8,
      (blitRows cx cy bytes acc).1.pixel (wrapColumn (cx + j)) (wrapRow (cy + i)) =
        (acc.1.pixel (wrapColumn (cx + j)) (wrapRow (cy + i)) ^^ spriteBit bytes[i] j)) ∧
    (∀ c r, (∀ i < bytes.length, ∀ j < 8, ¬ (c = wrapColumn (cx + j) ∧ r = wrapRow (cy + i))) →
      (blitRows cx cy bytes acc).1.pixel c r = acc.1.pixel c r) ∧
    ((blitRows cx cy bytes acc).2 = true ↔ acc.2 = true ∨ ∃ i, ∃ hi : i < bytes.length, ∃ j < 8,
      acc.1.pixel (wrapColumn (cx + j)) (wrapRow (cy + i)) = true ∧ spriteBit bytes[i] j = true) := by
  intro bytes
  induction bytes with
  | nil => intro cy acc _; simp [blitRows]
  | cons byte bytes ih =>
    intro cy acc hlen
    have hlen' : bytes.length + 1 ≤ 32 := by simpa using hlen
    obtain ⟨g1, g2, g3⟩ := blitRow_spec cx (wrapRow cy) byte acc
    obtain ⟨h1, h2, h3⟩ := ih (cy + 1) (blitRow cx (wrapRow cy) byte acc) (by omega)
    have hrow : ∀ i, cy + 1 + i = cy + (i + 1) := by omega
    have hne : ∀ i < bytes.length, wrapRow (cy + (i + 1)) ≠ wrapRow cy := fun i hi e =>
      absurd (row_injective (i := i + 1) (i' := 0) (by omega) (by omega) e) (by omega)
    have hlater : ∀ i < bytes.length, ∀ c, (blitRow cx (wrapRow cy) byte acc).1.pixel c (wrapRow (cy + (i + 1))) =
        acc.1.pixel c (wrapRow (cy + (i + 1))) := fun i hi c => g2 c _ fun e => absurd e (hne i hi)
    refine ⟨fun i hi j hj => ?_, fun c r hcr => ?_, ?_⟩
    · cases i with
      | zero =>
        rw [blitRows, h2 _ _ fun i' hi' j' hj' e => hne i' hi' (by rw [← hrow]; exact e.2.symm)]
        exact g1 j hj
      | succ i =>
        have hi' : i < bytes.length := by simpa using hi
        have := h1 i hi' j hj
        rw [hrow, hlater i hi'] at this
        simpa [blitRows] using this
    · rw [blitRows, h2 c r fun i hi j hj e => hcr (i + 1) (by simpa using hi) j hj ⟨e.1, by rw [← hrow]; exact e.2⟩]
      exact g2 c r fun e j hj hc => hcr 0 (by simp) j hj ⟨hc, e⟩
    · rw [blitRows, h3, g3, or_assoc]
      refine or_congr_right ⟨?_, ?_⟩
      · rintro (⟨j, hj, hp⟩ | ⟨i, hi, j, hj, hp, hb⟩)
        · exact ⟨0, by simp, j, hj, by simpa using hp⟩
        · rw [hrow, hlater i hi] at hp
          exact ⟨i + 1, by simpa using hi, j, hj, hp, by simpa using hb⟩
      · rintro ⟨i, hi, j, hj, hp, hb⟩
        cases i with
        | zero => exact .inl ⟨j, hj, by simpa using hp, by simpa using hb⟩
        | succ i =>
          have hi' : i < bytes.length := by simpa using hi
          exact .inr ⟨i, hi', j, hj, by rw [hrow, hlater i hi']; exact hp, by simpa using hb⟩

/-- What `SpriteBlit` does: each target pixel is XORed with its sprite bit, every other pixel is as before, and it
collides iff a target pixel was on and its sprite bit is 1. -/
theorem spriteBlit_spec (fb : Framebuffer) (cx cy : Nat) (bytes : List Byte) (hlen : bytes.length ≤ 32) :
    (∀ i, (hi : i < bytes.length) → ∀ j < 8,
      (spriteBlit fb cx cy bytes).1.pixel (wrapColumn (cx + j)) (wrapRow (cy + i)) =
        (fb.pixel (wrapColumn (cx + j)) (wrapRow (cy + i)) ^^ spriteBit bytes[i] j)) ∧
    (∀ c r, (∀ i < bytes.length, ∀ j < 8, ¬ (c = wrapColumn (cx + j) ∧ r = wrapRow (cy + i))) →
      (spriteBlit fb cx cy bytes).1.pixel c r = fb.pixel c r) ∧
    ((spriteBlit fb cx cy bytes).2 = true ↔ ∃ i, ∃ hi : i < bytes.length, ∃ j < 8,
      fb.pixel (wrapColumn (cx + j)) (wrapRow (cy + i)) = true ∧ spriteBit bytes[i] j = true) := by
  simpa [spriteBlit] using blitRows_spec cx bytes cy (fb, false) hlen

end Sys2Proof.Machine
end

