-- ==== Sys2Proof/Laws/Memory.lean ====
section
/-! SUPPORT. The laws of memory: a read after a write, the canonical form kept by every operation, and reads after the
multi-byte writes. -/

namespace Sys2Proof.Machine

/-- A canonical memory lists nothing below its first entry. -/
theorem Memory.read_eq_unlisted_of_lt {m : Memory} {a : Nat} (h : ∀ c ∈ m, a < c.1) : m.read a = unlistedByte := by
  induction m with
  | nil => rfl
  | cons c m ih =>
    obtain ⟨b, u⟩ := c
    have hb : a < b := h (b, u) List.mem_cons_self
    simp only [Memory.read, if_neg (Nat.ne_of_gt hb)]
    exact ih fun d hd => h d (List.mem_cons_of_mem _ hd)

/-- A read after a write: the written byte at its address, every other byte as before. -/
theorem Memory.read_write {m : Memory} (hm : m.Pairwise fun c d => c.1 < d.1) (a a' : Nat) (v : Byte) :
    (m.write a v).read a' = if a' = a then v else m.read a' := by
  induction m with
  | nil => simp only [Memory.write]; split <;> simp_all [Memory.read, eq_comm]
  | cons c m ih =>
    obtain ⟨b, u⟩ := c
    obtain ⟨hlt, htail⟩ := List.pairwise_cons.mp hm
    have hbelow : ∀ {d}, d ≤ b → d ≠ b → Memory.read m d = unlistedByte := fun {d} hd _ =>
      Memory.read_eq_unlisted_of_lt fun c hc => Nat.lt_of_le_of_lt hd (hlt c hc)
    have hat : Memory.read m b = unlistedByte := Memory.read_eq_unlisted_of_lt fun c hc => hlt c hc
    simp only [Memory.write]
    split
    · next hab =>
      have hma : Memory.read ((b, u) :: m) a = unlistedByte := by
        simp only [Memory.read, if_neg (Nat.ne_of_gt hab)]
        exact hbelow (Nat.le_of_lt hab) (Nat.ne_of_lt hab)
      split
      · next hv => split <;> simp_all
      · simp only [Memory.read, eq_comm]
    · split
      · next hab =>
        subst hab
        split
        · next hv =>
          by_cases h : a' = a
          · simp [h, hat, hv]
          · simp [Memory.read, h, Ne.symm h]
        · simp only [Memory.read, eq_comm]; split <;> simp_all
      · next hab =>
        simp only [Memory.read, ih htail]
        by_cases h : b = a'
        · subst h; simp [Ne.symm hab]
        · simp [h]

/-- What a written memory lists is old or is the written byte. -/
theorem Memory.mem_write {m : Memory} {a : Nat} {v : Byte} {c : Host.Cell} (h : c ∈ m.write a v) :
    c ∈ m ∨ (c = (a, v) ∧ v ≠ unlistedByte) := by
  induction m with
  | nil => simp only [Memory.write] at h; split at h <;> simp_all
  | cons d m ih =>
    simp only [Memory.write] at h
    split at h
    · split at h <;> simp_all [or_comm, or_assoc]
    · split at h
      · split at h <;> simp_all
        tauto
      · rcases List.mem_cons.mp h with rfl | h
        · exact .inl List.mem_cons_self
        · exact (ih h).imp_left (List.mem_cons_of_mem _)

/-- A write inside the memory keeps the canonical form. -/
theorem Memory.wf_write {m : Memory} (hm : m.wf) {a : Nat} (ha : a < memSize) (v : Byte) : (m.write a v).wf := by
  refine ⟨?_, fun c hc => ?_⟩
  · have hs := hm.1
    clear hm
    induction m with
    | nil => simp only [Memory.write]; split <;> simp
    | cons d m ih =>
      obtain ⟨b, u⟩ := d
      obtain ⟨hlt, htail⟩ := List.pairwise_cons.mp hs
      simp only [Memory.write]
      split
      · next hab =>
        split
        · exact hs
        · refine List.pairwise_cons.mpr ⟨fun c hc => ?_, hs⟩
          rcases List.mem_cons.mp hc with rfl | hc
          · exact hab
          · exact Nat.lt_trans hab (hlt c hc)
      · split
        · next hab =>
          subst hab
          split
          · exact htail
          · exact List.pairwise_cons.mpr ⟨hlt, htail⟩
        · next h1 h2 =>
          refine List.pairwise_cons.mpr ⟨fun c hc => ?_, ih htail⟩
          rcases Memory.mem_write hc with hc | ⟨rfl, -⟩
          · exact hlt c hc
          · show b < a; omega
  · rcases Memory.mem_write hc with hc | ⟨rfl, hv⟩
    · exact hm.2 c hc
    · exact ⟨hv, ha⟩

/-- Writing bytes inside the memory keeps the canonical form. -/
theorem Memory.wf_writeBytes {bytes : List Byte} : ∀ {m : Memory} {a : Nat}, m.wf → spanInBounds a bytes.length →
    (m.writeBytes a bytes).wf := by
  induction bytes with
  | nil => intro m a hm _; exact hm
  | cons b bs ih =>
    intro m a hm h
    have h' : a + (bs.length + 1) ≤ memSize := by simpa [spanInBounds] using h
    exact ih (Memory.wf_write hm (by omega) b) (by unfold spanInBounds; omega)

/-- A read after writing bytes from `a` on. -/
theorem Memory.read_writeBytes {bytes : List Byte} : ∀ {m : Memory} {a : Nat}, m.wf → spanInBounds a bytes.length →
    ∀ a', (m.writeBytes a bytes).read a' =
      if h : a ≤ a' ∧ a' - a < bytes.length then bytes[a' - a]'h.2 else m.read a' := by
  induction bytes with
  | nil => intro m a _ _ a'; simp [Memory.writeBytes]
  | cons b bs ih =>
    intro m a hm h a'
    have h' : a + (bs.length + 1) ≤ memSize := by simpa [spanInBounds] using h
    have hw : (m.write a b).wf := Memory.wf_write hm (by omega) b
    rw [Memory.writeBytes, ih hw (by unfold spanInBounds; omega), Memory.read_write hm.1]
    by_cases h1 : a' = a
    · subst h1; simp
    · by_cases h2 : a + 1 ≤ a' ∧ a' - (a + 1) < bs.length
      · have h3 : a ≤ a' ∧ a' - a < (b :: bs).length := ⟨by omega, by simp only [List.length_cons]; omega⟩
        have h4 : a' - a = (a' - (a + 1)) + 1 := by omega
        rw [dif_pos h2, dif_pos h3]
        simp [h4]
      · have h3 : ¬ (a ≤ a' ∧ a' - a < (b :: bs).length) := by simp only [List.length_cons]; omega
        rw [dif_neg h2, dif_neg h3, if_neg h1]

/-- Every address outside the written bytes reads as before. -/
theorem Memory.read_writeBytes_outside {m : Memory} (hm : m.wf) {a : Nat} {bytes : List Byte}
    (hb : spanInBounds a bytes.length) {a' : Nat} (h : a' < a ∨ a + bytes.length ≤ a') :
    (m.writeBytes a bytes).read a' = m.read a' := by
  rw [Memory.read_writeBytes hm hb, dif_neg]; omega

@[simp] theorem Memory.length_readBytes (m : Memory) (a n : Nat) : (m.readBytes a n).length = n := by
  induction n generalizing a with
  | zero => rfl
  | succ n ih => simp [Memory.readBytes, ih]

/-- The k-th byte read from `a` on is the byte at `a + k`. -/
@[simp] theorem Memory.getElem_readBytes (m : Memory) (a n k : Nat) (h : k < (m.readBytes a n).length) :
    (m.readBytes a n)[k] = m.read (a + k) := by
  induction n generalizing a k with
  | zero => simp at h
  | succ n ih =>
    cases k with
    | zero => rfl
    | succ k =>
      simp only [Memory.readBytes, List.getElem_cons_succ]
      rw [ih]; congr 1; omega

/-- Taking entries out of a memory keeps the canonical form. -/
theorem Memory.wf_filter {m : Memory} (hm : m.wf) (p : Host.Cell → Bool) : Memory.wf (m.filter p) :=
  ⟨hm.1.filter p, fun c hc => hm.2 c (List.mem_filter.mp hc).1⟩

end Sys2Proof.Machine
end

