-- ==== Sys2Proof/Laws/State.lean ====
section
/-! SUPPORT. What each named update does to each field of the state, one lemma per field per update, so that no proof unfolds a
record update; then the register read after each register write. -/

namespace Sys2Proof.Machine

/-! `State.setReg`. -/

@[simp] theorem State.setReg_v (s : State) (x : Reg) (b : Byte) : (s.setReg x b).v = s.v.set x b := rfl
@[simp] theorem State.setReg_i (s : State) (x : Reg) (b : Byte) : (s.setReg x b).i = s.i := rfl
@[simp] theorem State.setReg_pc (s : State) (x : Reg) (b : Byte) : (s.setReg x b).pc = s.pc := rfl
@[simp] theorem State.setReg_stack (s : State) (x : Reg) (b : Byte) : (s.setReg x b).stack = s.stack := rfl
@[simp] theorem State.setReg_sp (s : State) (x : Reg) (b : Byte) : (s.setReg x b).sp = s.sp := rfl
@[simp] theorem State.setReg_mem (s : State) (x : Reg) (b : Byte) : (s.setReg x b).mem = s.mem := rfl
@[simp] theorem State.setReg_fb (s : State) (x : Reg) (b : Byte) : (s.setReg x b).fb = s.fb := rfl
@[simp] theorem State.setReg_dt (s : State) (x : Reg) (b : Byte) : (s.setReg x b).dt = s.dt := rfl
@[simp] theorem State.setReg_dtPhase (s : State) (x : Reg) (b : Byte) : (s.setReg x b).dtPhase = s.dtPhase := rfl
@[simp] theorem State.setReg_st (s : State) (x : Reg) (b : Byte) : (s.setReg x b).st = s.st := rfl
@[simp] theorem State.setReg_stPhase (s : State) (x : Reg) (b : Byte) : (s.setReg x b).stPhase = s.stPhase := rfl
@[simp] theorem State.setReg_cpuCnt (s : State) (x : Reg) (b : Byte) : (s.setReg x b).cpuCnt = s.cpuCnt := rfl
@[simp] theorem State.setReg_refreshCnt (s : State) (x : Reg) (b : Byte) : (s.setReg x b).refreshCnt = s.refreshCnt := rfl
@[simp] theorem State.setReg_keyPrev (s : State) (x : Reg) (b : Byte) : (s.setReg x b).keyPrev = s.keyPrev := rfl
@[simp] theorem State.setReg_runState (s : State) (x : Reg) (b : Byte) : (s.setReg x b).runState = s.runState := rfl
@[simp] theorem State.setReg_faultCode (s : State) (x : Reg) (b : Byte) : (s.setReg x b).faultCode = s.faultCode := rfl
@[simp] theorem State.setReg_faultPc (s : State) (x : Reg) (b : Byte) : (s.setReg x b).faultPc = s.faultPc := rfl
@[simp] theorem State.setReg_faultWord (s : State) (x : Reg) (b : Byte) : (s.setReg x b).faultWord = s.faultWord := rfl
@[simp] theorem State.setReg_cfg (s : State) (x : Reg) (b : Byte) : (s.setReg x b).cfg = s.cfg := rfl
@[simp] theorem State.setReg_presentReq (s : State) (x : Reg) (b : Byte) : (s.setReg x b).presentReq = s.presentReq := rfl
@[simp] theorem State.setReg_inputs (s : State) (x : Reg) (b : Byte) : (s.setReg x b).inputs = s.inputs := rfl

/-! `State.setI`. -/

@[simp] theorem State.setI_v (s : State) (n : Nat) : (s.setI n).v = s.v := rfl
@[simp] theorem State.setI_i (s : State) (n : Nat) : (s.setI n).i = BitVec.ofNat 16 (n % 4096) := rfl
@[simp] theorem State.setI_pc (s : State) (n : Nat) : (s.setI n).pc = s.pc := rfl
@[simp] theorem State.setI_stack (s : State) (n : Nat) : (s.setI n).stack = s.stack := rfl
@[simp] theorem State.setI_sp (s : State) (n : Nat) : (s.setI n).sp = s.sp := rfl
@[simp] theorem State.setI_mem (s : State) (n : Nat) : (s.setI n).mem = s.mem := rfl
@[simp] theorem State.setI_fb (s : State) (n : Nat) : (s.setI n).fb = s.fb := rfl
@[simp] theorem State.setI_dt (s : State) (n : Nat) : (s.setI n).dt = s.dt := rfl
@[simp] theorem State.setI_dtPhase (s : State) (n : Nat) : (s.setI n).dtPhase = s.dtPhase := rfl
@[simp] theorem State.setI_st (s : State) (n : Nat) : (s.setI n).st = s.st := rfl
@[simp] theorem State.setI_stPhase (s : State) (n : Nat) : (s.setI n).stPhase = s.stPhase := rfl
@[simp] theorem State.setI_cpuCnt (s : State) (n : Nat) : (s.setI n).cpuCnt = s.cpuCnt := rfl
@[simp] theorem State.setI_refreshCnt (s : State) (n : Nat) : (s.setI n).refreshCnt = s.refreshCnt := rfl
@[simp] theorem State.setI_keyPrev (s : State) (n : Nat) : (s.setI n).keyPrev = s.keyPrev := rfl
@[simp] theorem State.setI_runState (s : State) (n : Nat) : (s.setI n).runState = s.runState := rfl
@[simp] theorem State.setI_faultCode (s : State) (n : Nat) : (s.setI n).faultCode = s.faultCode := rfl
@[simp] theorem State.setI_faultPc (s : State) (n : Nat) : (s.setI n).faultPc = s.faultPc := rfl
@[simp] theorem State.setI_faultWord (s : State) (n : Nat) : (s.setI n).faultWord = s.faultWord := rfl
@[simp] theorem State.setI_cfg (s : State) (n : Nat) : (s.setI n).cfg = s.cfg := rfl
@[simp] theorem State.setI_presentReq (s : State) (n : Nat) : (s.setI n).presentReq = s.presentReq := rfl
@[simp] theorem State.setI_inputs (s : State) (n : Nat) : (s.setI n).inputs = s.inputs := rfl

/-! `State.jump`. -/

@[simp] theorem State.jump_v (s : State) (t : Word) : (s.jump t).v = s.v := rfl
@[simp] theorem State.jump_i (s : State) (t : Word) : (s.jump t).i = s.i := rfl
@[simp] theorem State.jump_pc (s : State) (t : Word) : (s.jump t).pc = t := rfl
@[simp] theorem State.jump_stack (s : State) (t : Word) : (s.jump t).stack = s.stack := rfl
@[simp] theorem State.jump_sp (s : State) (t : Word) : (s.jump t).sp = s.sp := rfl
@[simp] theorem State.jump_mem (s : State) (t : Word) : (s.jump t).mem = s.mem := rfl
@[simp] theorem State.jump_fb (s : State) (t : Word) : (s.jump t).fb = s.fb := rfl
@[simp] theorem State.jump_dt (s : State) (t : Word) : (s.jump t).dt = s.dt := rfl
@[simp] theorem State.jump_dtPhase (s : State) (t : Word) : (s.jump t).dtPhase = s.dtPhase := rfl
@[simp] theorem State.jump_st (s : State) (t : Word) : (s.jump t).st = s.st := rfl
@[simp] theorem State.jump_stPhase (s : State) (t : Word) : (s.jump t).stPhase = s.stPhase := rfl
@[simp] theorem State.jump_cpuCnt (s : State) (t : Word) : (s.jump t).cpuCnt = s.cpuCnt := rfl
@[simp] theorem State.jump_refreshCnt (s : State) (t : Word) : (s.jump t).refreshCnt = s.refreshCnt := rfl
@[simp] theorem State.jump_keyPrev (s : State) (t : Word) : (s.jump t).keyPrev = s.keyPrev := rfl
@[simp] theorem State.jump_runState (s : State) (t : Word) : (s.jump t).runState = s.runState := rfl
@[simp] theorem State.jump_faultCode (s : State) (t : Word) : (s.jump t).faultCode = s.faultCode := rfl
@[simp] theorem State.jump_faultPc (s : State) (t : Word) : (s.jump t).faultPc = s.faultPc := rfl
@[simp] theorem State.jump_faultWord (s : State) (t : Word) : (s.jump t).faultWord = s.faultWord := rfl
@[simp] theorem State.jump_cfg (s : State) (t : Word) : (s.jump t).cfg = s.cfg := rfl
@[simp] theorem State.jump_presentReq (s : State) (t : Word) : (s.jump t).presentReq = s.presentReq := rfl
@[simp] theorem State.jump_inputs (s : State) (t : Word) : (s.jump t).inputs = s.inputs := rfl

/-! `State.skipIf`. -/

@[simp] theorem State.skipIf_v (s : State) (b : Bool) : (s.skipIf b).v = s.v := rfl
@[simp] theorem State.skipIf_i (s : State) (b : Bool) : (s.skipIf b).i = s.i := rfl
@[simp] theorem State.skipIf_pc (s : State) (b : Bool) : (s.skipIf b).pc = if b then s.pc + 2 else s.pc := rfl
@[simp] theorem State.skipIf_stack (s : State) (b : Bool) : (s.skipIf b).stack = s.stack := rfl
@[simp] theorem State.skipIf_sp (s : State) (b : Bool) : (s.skipIf b).sp = s.sp := rfl
@[simp] theorem State.skipIf_mem (s : State) (b : Bool) : (s.skipIf b).mem = s.mem := rfl
@[simp] theorem State.skipIf_fb (s : State) (b : Bool) : (s.skipIf b).fb = s.fb := rfl
@[simp] theorem State.skipIf_dt (s : State) (b : Bool) : (s.skipIf b).dt = s.dt := rfl
@[simp] theorem State.skipIf_dtPhase (s : State) (b : Bool) : (s.skipIf b).dtPhase = s.dtPhase := rfl
@[simp] theorem State.skipIf_st (s : State) (b : Bool) : (s.skipIf b).st = s.st := rfl
@[simp] theorem State.skipIf_stPhase (s : State) (b : Bool) : (s.skipIf b).stPhase = s.stPhase := rfl
@[simp] theorem State.skipIf_cpuCnt (s : State) (b : Bool) : (s.skipIf b).cpuCnt = s.cpuCnt := rfl
@[simp] theorem State.skipIf_refreshCnt (s : State) (b : Bool) : (s.skipIf b).refreshCnt = s.refreshCnt := rfl
@[simp] theorem State.skipIf_keyPrev (s : State) (b : Bool) : (s.skipIf b).keyPrev = s.keyPrev := rfl
@[simp] theorem State.skipIf_runState (s : State) (b : Bool) : (s.skipIf b).runState = s.runState := rfl
@[simp] theorem State.skipIf_faultCode (s : State) (b : Bool) : (s.skipIf b).faultCode = s.faultCode := rfl
@[simp] theorem State.skipIf_faultPc (s : State) (b : Bool) : (s.skipIf b).faultPc = s.faultPc := rfl
@[simp] theorem State.skipIf_faultWord (s : State) (b : Bool) : (s.skipIf b).faultWord = s.faultWord := rfl
@[simp] theorem State.skipIf_cfg (s : State) (b : Bool) : (s.skipIf b).cfg = s.cfg := rfl
@[simp] theorem State.skipIf_presentReq (s : State) (b : Bool) : (s.skipIf b).presentReq = s.presentReq := rfl
@[simp] theorem State.skipIf_inputs (s : State) (b : Bool) : (s.skipIf b).inputs = s.inputs := rfl

/-! `State.rewindIf`. -/

@[simp] theorem State.rewindIf_v (s : State) (b : Bool) : (s.rewindIf b).v = s.v := rfl
@[simp] theorem State.rewindIf_i (s : State) (b : Bool) : (s.rewindIf b).i = s.i := rfl
@[simp] theorem State.rewindIf_pc (s : State) (b : Bool) : (s.rewindIf b).pc = if b then s.pc - 2 else s.pc := rfl
@[simp] theorem State.rewindIf_stack (s : State) (b : Bool) : (s.rewindIf b).stack = s.stack := rfl
@[simp] theorem State.rewindIf_sp (s : State) (b : Bool) : (s.rewindIf b).sp = s.sp := rfl
@[simp] theorem State.rewindIf_mem (s : State) (b : Bool) : (s.rewindIf b).mem = s.mem := rfl
@[simp] theorem State.rewindIf_fb (s : State) (b : Bool) : (s.rewindIf b).fb = s.fb := rfl
@[simp] theorem State.rewindIf_dt (s : State) (b : Bool) : (s.rewindIf b).dt = s.dt := rfl
@[simp] theorem State.rewindIf_dtPhase (s : State) (b : Bool) : (s.rewindIf b).dtPhase = s.dtPhase := rfl
@[simp] theorem State.rewindIf_st (s : State) (b : Bool) : (s.rewindIf b).st = s.st := rfl
@[simp] theorem State.rewindIf_stPhase (s : State) (b : Bool) : (s.rewindIf b).stPhase = s.stPhase := rfl
@[simp] theorem State.rewindIf_cpuCnt (s : State) (b : Bool) : (s.rewindIf b).cpuCnt = s.cpuCnt := rfl
@[simp] theorem State.rewindIf_refreshCnt (s : State) (b : Bool) : (s.rewindIf b).refreshCnt = s.refreshCnt := rfl
@[simp] theorem State.rewindIf_keyPrev (s : State) (b : Bool) : (s.rewindIf b).keyPrev = s.keyPrev := rfl
@[simp] theorem State.rewindIf_runState (s : State) (b : Bool) : (s.rewindIf b).runState = s.runState := rfl
@[simp] theorem State.rewindIf_faultCode (s : State) (b : Bool) : (s.rewindIf b).faultCode = s.faultCode := rfl
@[simp] theorem State.rewindIf_faultPc (s : State) (b : Bool) : (s.rewindIf b).faultPc = s.faultPc := rfl
@[simp] theorem State.rewindIf_faultWord (s : State) (b : Bool) : (s.rewindIf b).faultWord = s.faultWord := rfl
@[simp] theorem State.rewindIf_cfg (s : State) (b : Bool) : (s.rewindIf b).cfg = s.cfg := rfl
@[simp] theorem State.rewindIf_presentReq (s : State) (b : Bool) : (s.rewindIf b).presentReq = s.presentReq := rfl
@[simp] theorem State.rewindIf_inputs (s : State) (b : Bool) : (s.rewindIf b).inputs = s.inputs := rfl

/-! `State.advance`. -/

@[simp] theorem State.advance_v (s : State) : (s.advance).v = s.v := rfl
@[simp] theorem State.advance_i (s : State) : (s.advance).i = s.i := rfl
@[simp] theorem State.advance_pc (s : State) : (s.advance).pc = s.pc + 2 := rfl
@[simp] theorem State.advance_stack (s : State) : (s.advance).stack = s.stack := rfl
@[simp] theorem State.advance_sp (s : State) : (s.advance).sp = s.sp := rfl
@[simp] theorem State.advance_mem (s : State) : (s.advance).mem = s.mem := rfl
@[simp] theorem State.advance_fb (s : State) : (s.advance).fb = s.fb := rfl
@[simp] theorem State.advance_dt (s : State) : (s.advance).dt = s.dt := rfl
@[simp] theorem State.advance_dtPhase (s : State) : (s.advance).dtPhase = s.dtPhase := rfl
@[simp] theorem State.advance_st (s : State) : (s.advance).st = s.st := rfl
@[simp] theorem State.advance_stPhase (s : State) : (s.advance).stPhase = s.stPhase := rfl
@[simp] theorem State.advance_cpuCnt (s : State) : (s.advance).cpuCnt = s.cpuCnt := rfl
@[simp] theorem State.advance_refreshCnt (s : State) : (s.advance).refreshCnt = s.refreshCnt := rfl
@[simp] theorem State.advance_keyPrev (s : State) : (s.advance).keyPrev = s.keyPrev := rfl
@[simp] theorem State.advance_runState (s : State) : (s.advance).runState = s.runState := rfl
@[simp] theorem State.advance_faultCode (s : State) : (s.advance).faultCode = s.faultCode := rfl
@[simp] theorem State.advance_faultPc (s : State) : (s.advance).faultPc = s.faultPc := rfl
@[simp] theorem State.advance_faultWord (s : State) : (s.advance).faultWord = s.faultWord := rfl
@[simp] theorem State.advance_cfg (s : State) : (s.advance).cfg = s.cfg := rfl
@[simp] theorem State.advance_presentReq (s : State) : (s.advance).presentReq = s.presentReq := rfl
@[simp] theorem State.advance_inputs (s : State) : (s.advance).inputs = s.inputs := rfl

/-! `State.halt`. -/

@[simp] theorem State.halt_v (s : State) (c : FaultCode) (a : Word) (w : Option Word) : (s.halt c a w).v = s.v := rfl
@[simp] theorem State.halt_i (s : State) (c : FaultCode) (a : Word) (w : Option Word) : (s.halt c a w).i = s.i := rfl
@[simp] theorem State.halt_pc (s : State) (c : FaultCode) (a : Word) (w : Option Word) : (s.halt c a w).pc = a := rfl
@[simp] theorem State.halt_stack (s : State) (c : FaultCode) (a : Word) (w : Option Word) : (s.halt c a w).stack = s.stack := rfl
@[simp] theorem State.halt_sp (s : State) (c : FaultCode) (a : Word) (w : Option Word) : (s.halt c a w).sp = s.sp := rfl
@[simp] theorem State.halt_mem (s : State) (c : FaultCode) (a : Word) (w : Option Word) : (s.halt c a w).mem = s.mem := rfl
@[simp] theorem State.halt_fb (s : State) (c : FaultCode) (a : Word) (w : Option Word) : (s.halt c a w).fb = s.fb := rfl
@[simp] theorem State.halt_dt (s : State) (c : FaultCode) (a : Word) (w : Option Word) : (s.halt c a w).dt = s.dt := rfl
@[simp] theorem State.halt_dtPhase (s : State) (c : FaultCode) (a : Word) (w : Option Word) : (s.halt c a w).dtPhase = s.dtPhase := rfl
@[simp] theorem State.halt_st (s : State) (c : FaultCode) (a : Word) (w : Option Word) : (s.halt c a w).st = s.st := rfl
@[simp] theorem State.halt_stPhase (s : State) (c : FaultCode) (a : Word) (w : Option Word) : (s.halt c a w).stPhase = s.stPhase := rfl
@[simp] theorem State.halt_cpuCnt (s : State) (c : FaultCode) (a : Word) (w : Option Word) : (s.halt c a w).cpuCnt = s.cpuCnt := rfl
@[simp] theorem State.halt_refreshCnt (s : State) (c : FaultCode) (a : Word) (w : Option Word) : (s.halt c a w).refreshCnt = s.refreshCnt := rfl
@[simp] theorem State.halt_keyPrev (s : State) (c : FaultCode) (a : Word) (w : Option Word) : (s.halt c a w).keyPrev = s.keyPrev := rfl
@[simp] theorem State.halt_runState (s : State) (c : FaultCode) (a : Word) (w : Option Word) : (s.halt c a w).runState = .halted := rfl
@[simp] theorem State.halt_faultCode (s : State) (c : FaultCode) (a : Word) (w : Option Word) : (s.halt c a w).faultCode = c := rfl
@[simp] theorem State.halt_faultPc (s : State) (c : FaultCode) (a : Word) (w : Option Word) : (s.halt c a w).faultPc = a := rfl
@[simp] theorem State.halt_faultWord (s : State) (c : FaultCode) (a : Word) (w : Option Word) : (s.halt c a w).faultWord = w := rfl
@[simp] theorem State.halt_cfg (s : State) (c : FaultCode) (a : Word) (w : Option Word) : (s.halt c a w).cfg = s.cfg := rfl
@[simp] theorem State.halt_presentReq (s : State) (c : FaultCode) (a : Word) (w : Option Word) : (s.halt c a w).presentReq = s.presentReq := rfl
@[simp] theorem State.halt_inputs (s : State) (c : FaultCode) (a : Word) (w : Option Word) : (s.halt c a w).inputs = s.inputs := rfl

/-! `State.setFb`. -/

@[simp] theorem State.setFb_v (s : State) (fb : Framebuffer) : (s.setFb fb).v = s.v := rfl
@[simp] theorem State.setFb_i (s : State) (fb : Framebuffer) : (s.setFb fb).i = s.i := rfl
@[simp] theorem State.setFb_pc (s : State) (fb : Framebuffer) : (s.setFb fb).pc = s.pc := rfl
@[simp] theorem State.setFb_stack (s : State) (fb : Framebuffer) : (s.setFb fb).stack = s.stack := rfl
@[simp] theorem State.setFb_sp (s : State) (fb : Framebuffer) : (s.setFb fb).sp = s.sp := rfl
@[simp] theorem State.setFb_mem (s : State) (fb : Framebuffer) : (s.setFb fb).mem = s.mem := rfl
@[simp] theorem State.setFb_fb (s : State) (fb : Framebuffer) : (s.setFb fb).fb = fb := rfl
@[simp] theorem State.setFb_dt (s : State) (fb : Framebuffer) : (s.setFb fb).dt = s.dt := rfl
@[simp] theorem State.setFb_dtPhase (s : State) (fb : Framebuffer) : (s.setFb fb).dtPhase = s.dtPhase := rfl
@[simp] theorem State.setFb_st (s : State) (fb : Framebuffer) : (s.setFb fb).st = s.st := rfl
@[simp] theorem State.setFb_stPhase (s : State) (fb : Framebuffer) : (s.setFb fb).stPhase = s.stPhase := rfl
@[simp] theorem State.setFb_cpuCnt (s : State) (fb : Framebuffer) : (s.setFb fb).cpuCnt = s.cpuCnt := rfl
@[simp] theorem State.setFb_refreshCnt (s : State) (fb : Framebuffer) : (s.setFb fb).refreshCnt = s.refreshCnt := rfl
@[simp] theorem State.setFb_keyPrev (s : State) (fb : Framebuffer) : (s.setFb fb).keyPrev = s.keyPrev := rfl
@[simp] theorem State.setFb_runState (s : State) (fb : Framebuffer) : (s.setFb fb).runState = s.runState := rfl
@[simp] theorem State.setFb_faultCode (s : State) (fb : Framebuffer) : (s.setFb fb).faultCode = s.faultCode := rfl
@[simp] theorem State.setFb_faultPc (s : State) (fb : Framebuffer) : (s.setFb fb).faultPc = s.faultPc := rfl
@[simp] theorem State.setFb_faultWord (s : State) (fb : Framebuffer) : (s.setFb fb).faultWord = s.faultWord := rfl
@[simp] theorem State.setFb_cfg (s : State) (fb : Framebuffer) : (s.setFb fb).cfg = s.cfg := rfl
@[simp] theorem State.setFb_presentReq (s : State) (fb : Framebuffer) : (s.setFb fb).presentReq = s.presentReq := rfl
@[simp] theorem State.setFb_inputs (s : State) (fb : Framebuffer) : (s.setFb fb).inputs = s.inputs := rfl

/-! `State.keyRefresh`. -/

@[simp] theorem State.keyRefresh_v (s : State) : (s.keyRefresh).v = s.v := rfl
@[simp] theorem State.keyRefresh_i (s : State) : (s.keyRefresh).i = s.i := rfl
@[simp] theorem State.keyRefresh_pc (s : State) : (s.keyRefresh).pc = s.pc := rfl
@[simp] theorem State.keyRefresh_stack (s : State) : (s.keyRefresh).stack = s.stack := rfl
@[simp] theorem State.keyRefresh_sp (s : State) : (s.keyRefresh).sp = s.sp := rfl
@[simp] theorem State.keyRefresh_mem (s : State) : (s.keyRefresh).mem = s.mem := rfl
@[simp] theorem State.keyRefresh_fb (s : State) : (s.keyRefresh).fb = s.fb := rfl
@[simp] theorem State.keyRefresh_dt (s : State) : (s.keyRefresh).dt = s.dt := rfl
@[simp] theorem State.keyRefresh_dtPhase (s : State) : (s.keyRefresh).dtPhase = s.dtPhase := rfl
@[simp] theorem State.keyRefresh_st (s : State) : (s.keyRefresh).st = s.st := rfl
@[simp] theorem State.keyRefresh_stPhase (s : State) : (s.keyRefresh).stPhase = s.stPhase := rfl
@[simp] theorem State.keyRefresh_cpuCnt (s : State) : (s.keyRefresh).cpuCnt = s.cpuCnt := rfl
@[simp] theorem State.keyRefresh_refreshCnt (s : State) : (s.keyRefresh).refreshCnt = s.refreshCnt := rfl
@[simp] theorem State.keyRefresh_keyPrev (s : State) : (s.keyRefresh).keyPrev = s.keysNow := rfl
@[simp] theorem State.keyRefresh_runState (s : State) : (s.keyRefresh).runState = s.runState := rfl
@[simp] theorem State.keyRefresh_faultCode (s : State) : (s.keyRefresh).faultCode = s.faultCode := rfl
@[simp] theorem State.keyRefresh_faultPc (s : State) : (s.keyRefresh).faultPc = s.faultPc := rfl
@[simp] theorem State.keyRefresh_faultWord (s : State) : (s.keyRefresh).faultWord = s.faultWord := rfl
@[simp] theorem State.keyRefresh_cfg (s : State) : (s.keyRefresh).cfg = s.cfg := rfl
@[simp] theorem State.keyRefresh_presentReq (s : State) : (s.keyRefresh).presentReq = s.presentReq := rfl
@[simp] theorem State.keyRefresh_inputs (s : State) : (s.keyRefresh).inputs = { s.inputs with keys := s.inputs.keys.tail, draws := s.inputs.draws + 1 } := rfl

/-! `State.storeKey`. -/

@[simp] theorem State.storeKey_v (s : State) (x : Reg) (k : Option Nat) : (s.storeKey x k).v = (match k with | none => s.v | some k => s.v.set x (BitVec.ofNat 8 k)) := rfl
@[simp] theorem State.storeKey_i (s : State) (x : Reg) (k : Option Nat) : (s.storeKey x k).i = s.i := rfl
@[simp] theorem State.storeKey_pc (s : State) (x : Reg) (k : Option Nat) : (s.storeKey x k).pc = s.pc := rfl
@[simp] theorem State.storeKey_stack (s : State) (x : Reg) (k : Option Nat) : (s.storeKey x k).stack = s.stack := rfl
@[simp] theorem State.storeKey_sp (s : State) (x : Reg) (k : Option Nat) : (s.storeKey x k).sp = s.sp := rfl
@[simp] theorem State.storeKey_mem (s : State) (x : Reg) (k : Option Nat) : (s.storeKey x k).mem = s.mem := rfl
@[simp] theorem State.storeKey_fb (s : State) (x : Reg) (k : Option Nat) : (s.storeKey x k).fb = s.fb := rfl
@[simp] theorem State.storeKey_dt (s : State) (x : Reg) (k : Option Nat) : (s.storeKey x k).dt = s.dt := rfl
@[simp] theorem State.storeKey_dtPhase (s : State) (x : Reg) (k : Option Nat) : (s.storeKey x k).dtPhase = s.dtPhase := rfl
@[simp] theorem State.storeKey_st (s : State) (x : Reg) (k : Option Nat) : (s.storeKey x k).st = s.st := rfl
@[simp] theorem State.storeKey_stPhase (s : State) (x : Reg) (k : Option Nat) : (s.storeKey x k).stPhase = s.stPhase := rfl
@[simp] theorem State.storeKey_cpuCnt (s : State) (x : Reg) (k : Option Nat) : (s.storeKey x k).cpuCnt = s.cpuCnt := rfl
@[simp] theorem State.storeKey_refreshCnt (s : State) (x : Reg) (k : Option Nat) : (s.storeKey x k).refreshCnt = s.refreshCnt := rfl
@[simp] theorem State.storeKey_keyPrev (s : State) (x : Reg) (k : Option Nat) : (s.storeKey x k).keyPrev = s.keyPrev := rfl
@[simp] theorem State.storeKey_runState (s : State) (x : Reg) (k : Option Nat) : (s.storeKey x k).runState = s.runState := rfl
@[simp] theorem State.storeKey_faultCode (s : State) (x : Reg) (k : Option Nat) : (s.storeKey x k).faultCode = s.faultCode := rfl
@[simp] theorem State.storeKey_faultPc (s : State) (x : Reg) (k : Option Nat) : (s.storeKey x k).faultPc = s.faultPc := rfl
@[simp] theorem State.storeKey_faultWord (s : State) (x : Reg) (k : Option Nat) : (s.storeKey x k).faultWord = s.faultWord := rfl
@[simp] theorem State.storeKey_cfg (s : State) (x : Reg) (k : Option Nat) : (s.storeKey x k).cfg = s.cfg := rfl
@[simp] theorem State.storeKey_presentReq (s : State) (x : Reg) (k : Option Nat) : (s.storeKey x k).presentReq = s.presentReq := rfl
@[simp] theorem State.storeKey_inputs (s : State) (x : Reg) (k : Option Nat) : (s.storeKey x k).inputs = s.inputs := rfl

/-! `State.randDrawn`. -/

@[simp] theorem State.randDrawn_v (s : State) : (s.randDrawn).v = s.v := rfl
@[simp] theorem State.randDrawn_i (s : State) : (s.randDrawn).i = s.i := rfl
@[simp] theorem State.randDrawn_pc (s : State) : (s.randDrawn).pc = s.pc := rfl
@[simp] theorem State.randDrawn_stack (s : State) : (s.randDrawn).stack = s.stack := rfl
@[simp] theorem State.randDrawn_sp (s : State) : (s.randDrawn).sp = s.sp := rfl
@[simp] theorem State.randDrawn_mem (s : State) : (s.randDrawn).mem = s.mem := rfl
@[simp] theorem State.randDrawn_fb (s : State) : (s.randDrawn).fb = s.fb := rfl
@[simp] theorem State.randDrawn_dt (s : State) : (s.randDrawn).dt = s.dt := rfl
@[simp] theorem State.randDrawn_dtPhase (s : State) : (s.randDrawn).dtPhase = s.dtPhase := rfl
@[simp] theorem State.randDrawn_st (s : State) : (s.randDrawn).st = s.st := rfl
@[simp] theorem State.randDrawn_stPhase (s : State) : (s.randDrawn).stPhase = s.stPhase := rfl
@[simp] theorem State.randDrawn_cpuCnt (s : State) : (s.randDrawn).cpuCnt = s.cpuCnt := rfl
@[simp] theorem State.randDrawn_refreshCnt (s : State) : (s.randDrawn).refreshCnt = s.refreshCnt := rfl
@[simp] theorem State.randDrawn_keyPrev (s : State) : (s.randDrawn).keyPrev = s.keyPrev := rfl
@[simp] theorem State.randDrawn_runState (s : State) : (s.randDrawn).runState = s.runState := rfl
@[simp] theorem State.randDrawn_faultCode (s : State) : (s.randDrawn).faultCode = s.faultCode := rfl
@[simp] theorem State.randDrawn_faultPc (s : State) : (s.randDrawn).faultPc = s.faultPc := rfl
@[simp] theorem State.randDrawn_faultWord (s : State) : (s.randDrawn).faultWord = s.faultWord := rfl
@[simp] theorem State.randDrawn_cfg (s : State) : (s.randDrawn).cfg = s.cfg := rfl
@[simp] theorem State.randDrawn_presentReq (s : State) : (s.randDrawn).presentReq = s.presentReq := rfl
@[simp] theorem State.randDrawn_inputs (s : State) : (s.randDrawn).inputs = { s.inputs with rand := s.inputs.rand.tail, draws := s.inputs.draws + 1 } := rfl

/-! `State.loadDelay`. -/

@[simp] theorem State.loadDelay_v (s : State) (b : Byte) : (s.loadDelay b).v = s.v := rfl
@[simp] theorem State.loadDelay_i (s : State) (b : Byte) : (s.loadDelay b).i = s.i := rfl
@[simp] theorem State.loadDelay_pc (s : State) (b : Byte) : (s.loadDelay b).pc = s.pc := rfl
@[simp] theorem State.loadDelay_stack (s : State) (b : Byte) : (s.loadDelay b).stack = s.stack := rfl
@[simp] theorem State.loadDelay_sp (s : State) (b : Byte) : (s.loadDelay b).sp = s.sp := rfl
@[simp] theorem State.loadDelay_mem (s : State) (b : Byte) : (s.loadDelay b).mem = s.mem := rfl
@[simp] theorem State.loadDelay_fb (s : State) (b : Byte) : (s.loadDelay b).fb = s.fb := rfl
@[simp] theorem State.loadDelay_dt (s : State) (b : Byte) : (s.loadDelay b).dt = b := rfl
@[simp] theorem State.loadDelay_dtPhase (s : State) (b : Byte) : (s.loadDelay b).dtPhase = 0 := rfl
@[simp] theorem State.loadDelay_st (s : State) (b : Byte) : (s.loadDelay b).st = s.st := rfl
@[simp] theorem State.loadDelay_stPhase (s : State) (b : Byte) : (s.loadDelay b).stPhase = s.stPhase := rfl
@[simp] theorem State.loadDelay_cpuCnt (s : State) (b : Byte) : (s.loadDelay b).cpuCnt = s.cpuCnt := rfl
@[simp] theorem State.loadDelay_refreshCnt (s : State) (b : Byte) : (s.loadDelay b).refreshCnt = s.refreshCnt := rfl
@[simp] theorem State.loadDelay_keyPrev (s : State) (b : Byte) : (s.loadDelay b).keyPrev = s.keyPrev := rfl
@[simp] theorem State.loadDelay_runState (s : State) (b : Byte) : (s.loadDelay b).runState = s.runState := rfl
@[simp] theorem State.loadDelay_faultCode (s : State) (b : Byte) : (s.loadDelay b).faultCode = s.faultCode := rfl
@[simp] theorem State.loadDelay_faultPc (s : State) (b : Byte) : (s.loadDelay b).faultPc = s.faultPc := rfl
@[simp] theorem State.loadDelay_faultWord (s : State) (b : Byte) : (s.loadDelay b).faultWord = s.faultWord := rfl
@[simp] theorem State.loadDelay_cfg (s : State) (b : Byte) : (s.loadDelay b).cfg = s.cfg := rfl
@[simp] theorem State.loadDelay_presentReq (s : State) (b : Byte) : (s.loadDelay b).presentReq = s.presentReq := rfl
@[simp] theorem State.loadDelay_inputs (s : State) (b : Byte) : (s.loadDelay b).inputs = s.inputs := rfl

/-! `State.loadSound`. -/

@[simp] theorem State.loadSound_v (s : State) (b : Byte) : (s.loadSound b).v = s.v := rfl
@[simp] theorem State.loadSound_i (s : State) (b : Byte) : (s.loadSound b).i = s.i := rfl
@[simp] theorem State.loadSound_pc (s : State) (b : Byte) : (s.loadSound b).pc = s.pc := rfl
@[simp] theorem State.loadSound_stack (s : State) (b : Byte) : (s.loadSound b).stack = s.stack := rfl
@[simp] theorem State.loadSound_sp (s : State) (b : Byte) : (s.loadSound b).sp = s.sp := rfl
@[simp] theorem State.loadSound_mem (s : State) (b : Byte) : (s.loadSound b).mem = s.mem := rfl
@[simp] theorem State.loadSound_fb (s : State) (b : Byte) : (s.loadSound b).fb = s.fb := rfl
@[simp] theorem State.loadSound_dt (s : State) (b : Byte) : (s.loadSound b).dt = s.dt := rfl
@[simp] theorem State.loadSound_dtPhase (s : State) (b : Byte) : (s.loadSound b).dtPhase = s.dtPhase := rfl
@[simp] theorem State.loadSound_st (s : State) (b : Byte) : (s.loadSound b).st = b := rfl
@[simp] theorem State.loadSound_stPhase (s : State) (b : Byte) : (s.loadSound b).stPhase = 0 := rfl
@[simp] theorem State.loadSound_cpuCnt (s : State) (b : Byte) : (s.loadSound b).cpuCnt = s.cpuCnt := rfl
@[simp] theorem State.loadSound_refreshCnt (s : State) (b : Byte) : (s.loadSound b).refreshCnt = s.refreshCnt := rfl
@[simp] theorem State.loadSound_keyPrev (s : State) (b : Byte) : (s.loadSound b).keyPrev = s.keyPrev := rfl
@[simp] theorem State.loadSound_runState (s : State) (b : Byte) : (s.loadSound b).runState = s.runState := rfl
@[simp] theorem State.loadSound_faultCode (s : State) (b : Byte) : (s.loadSound b).faultCode = s.faultCode := rfl
@[simp] theorem State.loadSound_faultPc (s : State) (b : Byte) : (s.loadSound b).faultPc = s.faultPc := rfl
@[simp] theorem State.loadSound_faultWord (s : State) (b : Byte) : (s.loadSound b).faultWord = s.faultWord := rfl
@[simp] theorem State.loadSound_cfg (s : State) (b : Byte) : (s.loadSound b).cfg = s.cfg := rfl
@[simp] theorem State.loadSound_presentReq (s : State) (b : Byte) : (s.loadSound b).presentReq = s.presentReq := rfl
@[simp] theorem State.loadSound_inputs (s : State) (b : Byte) : (s.loadSound b).inputs = s.inputs := rfl

/-! `State.countdowns`. -/

@[simp] theorem State.countdowns_v (s : State) : (s.countdowns).v = s.v := rfl
@[simp] theorem State.countdowns_i (s : State) : (s.countdowns).i = s.i := rfl
@[simp] theorem State.countdowns_pc (s : State) : (s.countdowns).pc = s.pc := rfl
@[simp] theorem State.countdowns_stack (s : State) : (s.countdowns).stack = s.stack := rfl
@[simp] theorem State.countdowns_sp (s : State) : (s.countdowns).sp = s.sp := rfl
@[simp] theorem State.countdowns_mem (s : State) : (s.countdowns).mem = s.mem := rfl
@[simp] theorem State.countdowns_fb (s : State) : (s.countdowns).fb = s.fb := rfl
@[simp] theorem State.countdowns_dt (s : State) : (s.countdowns).dt = (countdown s.cfg.timerDiv (s.dt, s.dtPhase)).1 := rfl
@[simp] theorem State.countdowns_dtPhase (s : State) : (s.countdowns).dtPhase = (countdown s.cfg.timerDiv (s.dt, s.dtPhase)).2 := rfl
@[simp] theorem State.countdowns_st (s : State) : (s.countdowns).st = (countdown s.cfg.timerDiv (s.st, s.stPhase)).1 := rfl
@[simp] theorem State.countdowns_stPhase (s : State) : (s.countdowns).stPhase = (countdown s.cfg.timerDiv (s.st, s.stPhase)).2 := rfl
@[simp] theorem State.countdowns_cpuCnt (s : State) : (s.countdowns).cpuCnt = s.cpuCnt := rfl
@[simp] theorem State.countdowns_refreshCnt (s : State) : (s.countdowns).refreshCnt = s.refreshCnt := rfl
@[simp] theorem State.countdowns_keyPrev (s : State) : (s.countdowns).keyPrev = s.keyPrev := rfl
@[simp] theorem State.countdowns_runState (s : State) : (s.countdowns).runState = s.runState := rfl
@[simp] theorem State.countdowns_faultCode (s : State) : (s.countdowns).faultCode = s.faultCode := rfl
@[simp] theorem State.countdowns_faultPc (s : State) : (s.countdowns).faultPc = s.faultPc := rfl
@[simp] theorem State.countdowns_faultWord (s : State) : (s.countdowns).faultWord = s.faultWord := rfl
@[simp] theorem State.countdowns_cfg (s : State) : (s.countdowns).cfg = s.cfg := rfl
@[simp] theorem State.countdowns_presentReq (s : State) : (s.countdowns).presentReq = s.presentReq := rfl
@[simp] theorem State.countdowns_inputs (s : State) : (s.countdowns).inputs = s.inputs := rfl

/-! `State.endPulse`. -/

@[simp] theorem State.endPulse_v (s : State) : (s.endPulse).v = s.v := rfl
@[simp] theorem State.endPulse_i (s : State) : (s.endPulse).i = s.i := rfl
@[simp] theorem State.endPulse_pc (s : State) : (s.endPulse).pc = s.pc := rfl
@[simp] theorem State.endPulse_stack (s : State) : (s.endPulse).stack = s.stack := rfl
@[simp] theorem State.endPulse_sp (s : State) : (s.endPulse).sp = s.sp := rfl
@[simp] theorem State.endPulse_mem (s : State) : (s.endPulse).mem = s.mem := rfl
@[simp] theorem State.endPulse_fb (s : State) : (s.endPulse).fb = s.fb := rfl
@[simp] theorem State.endPulse_dt (s : State) : (s.endPulse).dt = s.dt := rfl
@[simp] theorem State.endPulse_dtPhase (s : State) : (s.endPulse).dtPhase = s.dtPhase := rfl
@[simp] theorem State.endPulse_st (s : State) : (s.endPulse).st = s.st := rfl
@[simp] theorem State.endPulse_stPhase (s : State) : (s.endPulse).stPhase = s.stPhase := rfl
@[simp] theorem State.endPulse_cpuCnt (s : State) : (s.endPulse).cpuCnt = s.cpuCnt := rfl
@[simp] theorem State.endPulse_refreshCnt (s : State) : (s.endPulse).refreshCnt = s.refreshCnt := rfl
@[simp] theorem State.endPulse_keyPrev (s : State) : (s.endPulse).keyPrev = s.keyPrev := rfl
@[simp] theorem State.endPulse_runState (s : State) : (s.endPulse).runState = s.runState := rfl
@[simp] theorem State.endPulse_faultCode (s : State) : (s.endPulse).faultCode = s.faultCode := rfl
@[simp] theorem State.endPulse_faultPc (s : State) : (s.endPulse).faultPc = s.faultPc := rfl
@[simp] theorem State.endPulse_faultWord (s : State) : (s.endPulse).faultWord = s.faultWord := rfl
@[simp] theorem State.endPulse_cfg (s : State) : (s.endPulse).cfg = s.cfg := rfl
@[simp] theorem State.endPulse_presentReq (s : State) : (s.endPulse).presentReq = false := rfl
@[simp] theorem State.endPulse_inputs (s : State) : (s.endPulse).inputs = s.inputs := rfl

/-! `State.beginCycle`. -/

@[simp] theorem State.beginCycle_v (s : State) : (s.beginCycle).v = s.v := rfl
@[simp] theorem State.beginCycle_i (s : State) : (s.beginCycle).i = s.i := rfl
@[simp] theorem State.beginCycle_pc (s : State) : (s.beginCycle).pc = s.pc := rfl
@[simp] theorem State.beginCycle_stack (s : State) : (s.beginCycle).stack = s.stack := rfl
@[simp] theorem State.beginCycle_sp (s : State) : (s.beginCycle).sp = s.sp := rfl
@[simp] theorem State.beginCycle_mem (s : State) : (s.beginCycle).mem = s.mem := rfl
@[simp] theorem State.beginCycle_fb (s : State) : (s.beginCycle).fb = s.fb := rfl
@[simp] theorem State.beginCycle_dt (s : State) : (s.beginCycle).dt = (countdown s.cfg.timerDiv (s.dt, s.dtPhase)).1 := rfl
@[simp] theorem State.beginCycle_dtPhase (s : State) : (s.beginCycle).dtPhase = (countdown s.cfg.timerDiv (s.dt, s.dtPhase)).2 := rfl
@[simp] theorem State.beginCycle_st (s : State) : (s.beginCycle).st = (countdown s.cfg.timerDiv (s.st, s.stPhase)).1 := rfl
@[simp] theorem State.beginCycle_stPhase (s : State) : (s.beginCycle).stPhase = (countdown s.cfg.timerDiv (s.st, s.stPhase)).2 := rfl
@[simp] theorem State.beginCycle_cpuCnt (s : State) : (s.beginCycle).cpuCnt = if s.tickDue then 0 else s.cpuCnt + 1 := rfl
@[simp] theorem State.beginCycle_refreshCnt (s : State) : (s.beginCycle).refreshCnt = s.refreshCnt := rfl
@[simp] theorem State.beginCycle_keyPrev (s : State) : (s.beginCycle).keyPrev = s.keyPrev := rfl
@[simp] theorem State.beginCycle_runState (s : State) : (s.beginCycle).runState = s.runState := rfl
@[simp] theorem State.beginCycle_faultCode (s : State) : (s.beginCycle).faultCode = s.faultCode := rfl
@[simp] theorem State.beginCycle_faultPc (s : State) : (s.beginCycle).faultPc = s.faultPc := rfl
@[simp] theorem State.beginCycle_faultWord (s : State) : (s.beginCycle).faultWord = s.faultWord := rfl
@[simp] theorem State.beginCycle_cfg (s : State) : (s.beginCycle).cfg = s.cfg := rfl
@[simp] theorem State.beginCycle_presentReq (s : State) : (s.beginCycle).presentReq = false := rfl
@[simp] theorem State.beginCycle_inputs (s : State) : (s.beginCycle).inputs = s.inputs := rfl

/-! Updates made of the updates above. -/

@[simp] theorem State.setResultFlag_eq (s : State) (x : Reg) (r f : Byte) :
    s.setResultFlag x r f = (s.setReg x r).setReg flagReg f := rfl

@[simp] theorem State.haltFetch_eq (s : State) (c : FaultCode) : s.haltFetch c = s.halt c s.pc none := rfl

@[simp] theorem State.raise_eq (s : State) (c : FaultCode) (w : Word) : s.raise c w = s.halt c (s.pc - 2) (some w) := rfl

/-! Reading a register after an update. -/

@[simp] theorem State.reg_setReg_self (s : State) (x : Reg) (b : Byte) : (s.setReg x b).reg x = b := by
  simp [State.reg]

theorem State.reg_setReg_of_ne (s : State) {x y : Reg} (b : Byte) (h : y ≠ x) : (s.setReg x b).reg y = s.reg y := by
  have : x.val ≠ y.val := fun e => h (Fin.ext e.symm)
  simp [State.reg, this]

theorem State.reg_setReg (s : State) (x y : Reg) (b : Byte) :
    (s.setReg x b).reg y = if y = x then b else s.reg y := by
  split
  · next h => subst h; exact s.reg_setReg_self y b
  · next h => exact s.reg_setReg_of_ne b h

/-- The register read of a state depends on its register file alone. -/
theorem State.reg_congr {s t : State} (h : t.v = s.v) (x : Reg) : t.reg x = s.reg x := by
  simp [State.reg, h]

@[simp] theorem State.reg_setI (s : State) (n : Nat) (y : Reg) : (s.setI n).reg y = s.reg y := rfl
@[simp] theorem State.reg_jump (s : State) (t : Word) (y : Reg) : (s.jump t).reg y = s.reg y := rfl
@[simp] theorem State.reg_skipIf (s : State) (b : Bool) (y : Reg) : (s.skipIf b).reg y = s.reg y := rfl
@[simp] theorem State.reg_rewindIf (s : State) (b : Bool) (y : Reg) : (s.rewindIf b).reg y = s.reg y := rfl
@[simp] theorem State.reg_advance (s : State) (y : Reg) : (s.advance).reg y = s.reg y := rfl
@[simp] theorem State.reg_halt (s : State) (c : FaultCode) (a : Word) (w : Option Word) (y : Reg) : (s.halt c a w).reg y = s.reg y := rfl
@[simp] theorem State.reg_setFb (s : State) (fb : Framebuffer) (y : Reg) : (s.setFb fb).reg y = s.reg y := rfl
@[simp] theorem State.reg_keyRefresh (s : State) (y : Reg) : (s.keyRefresh).reg y = s.reg y := rfl
@[simp] theorem State.reg_randDrawn (s : State) (y : Reg) : (s.randDrawn).reg y = s.reg y := rfl
@[simp] theorem State.reg_loadDelay (s : State) (b : Byte) (y : Reg) : (s.loadDelay b).reg y = s.reg y := rfl
@[simp] theorem State.reg_loadSound (s : State) (b : Byte) (y : Reg) : (s.loadSound b).reg y = s.reg y := rfl
@[simp] theorem State.reg_countdowns (s : State) (y : Reg) : (s.countdowns).reg y = s.reg y := rfl
@[simp] theorem State.reg_endPulse (s : State) (y : Reg) : (s.endPulse).reg y = s.reg y := rfl
@[simp] theorem State.reg_beginCycle (s : State) (y : Reg) : (s.beginCycle).reg y = s.reg y := rfl

end Sys2Proof.Machine
end

