-- ==== Sys2Proof/Laws/Ops.lean ====
section
/-! SUPPORT. One lemma per shared operation, saying once everything it can do; later proofs cite these. -/

namespace Sys2Proof.Machine

/-- `Push`: it succeeds exactly when fewer than 16 entries are in use, stores at `SP` and counts up (R140). -/
theorem State.push_eq_some_iff {s t : State} {v : Word} :
    s.push v = some t ↔ ∃ h : s.sp.val < 16, t = { s with stack := s.stack.set s.sp.val v, sp := ⟨s.sp.val + 1, by omega⟩ } := by
  unfold State.push; split <;> simp_all [eq_comm]

/-- `Push` fails exactly when 16 entries are in use (R140). -/
theorem State.push_eq_none_iff {s : State} {v : Word} : s.push v = none ↔ s.sp.val = 16 := by
  unfold State.push; split <;> simp <;> omega

/-- `Pop`: it succeeds exactly when an entry is in use, counts down and reads there (R141). -/
theorem State.pop_eq_some_iff {s t : State} {v : Word} :
    s.pop = some (v, t) ↔ ∃ h : 0 < s.sp.val, v = s.stack[s.sp.val - 1] ∧ t = { s with sp := ⟨s.sp.val - 1, by omega⟩ } := by
  unfold State.pop; split <;> simp_all [eq_comm]

/-- `Pop` fails exactly when no entry is in use (R141). -/
theorem State.pop_eq_none_iff {s : State} : s.pop = none ↔ s.sp.val = 0 := by
  unfold State.pop; split <;> simp <;> omega

/-- A load of `n` bytes at `I` answers the bytes exactly when all are in bounds (R65). -/
theorem State.loadBytes_eq_some_iff {s : State} {n : Nat} {bytes : List Byte} :
    s.loadBytes n = some bytes ↔ spanInBounds s.i.toNat n ∧ bytes = s.mem.readBytes s.i.toNat n := by
  unfold State.loadBytes; split <;> simp_all [eq_comm]

theorem State.loadBytes_eq_none_iff {s : State} {n : Nat} : s.loadBytes n = none ↔ ¬ spanInBounds s.i.toNat n := by
  unfold State.loadBytes; split <;> simp_all

/-- A store of bytes at `I` answers a state exactly when all are in bounds, and changes only memory (R65). -/
theorem State.storeBytes_eq_some_iff {s t : State} {bytes : List Byte} :
    s.storeBytes bytes = some t ↔
      spanInBounds s.i.toNat bytes.length ∧ t = { s with mem := s.mem.writeBytes s.i.toNat bytes } := by
  unfold State.storeBytes; split <;> simp_all [eq_comm]

theorem State.storeBytes_eq_none_iff {s : State} {bytes : List Byte} :
    s.storeBytes bytes = none ↔ ¬ spanInBounds s.i.toNat bytes.length := by
  unfold State.storeBytes; split <;> simp_all

/-- The key code is the register when it is at most 0xF (R231). -/
theorem State.keyCode_eq_some_iff {s : State} {x : Reg} {k : Nat} :
    s.keyCode x = some k ↔ (s.reg x).toNat ≤ 0xF ∧ k = (s.reg x).toNat := by
  unfold State.keyCode; split <;> simp_all [eq_comm]

theorem State.keyCode_eq_none_iff {s : State} {x : Reg} : s.keyCode x = none ↔ 0xF < (s.reg x).toNat := by
  unfold State.keyCode; split <;> simp_all

/-- The lowest key of a set: it is in the set and no lower key is (R230). -/
theorem lowestKey_eq_some_iff {keys : BitVec 16} {k : Nat} :
    lowestKey keys = some k ↔ keys.getLsbD k = true ∧ ∀ j < k, keys.getLsbD j = false := by
  unfold lowestKey
  rw [List.find?_range_eq_some]
  constructor
  · rintro ⟨h1, -, h2⟩; exact ⟨h1, fun j hj => by simpa using h2 j hj⟩
  · rintro ⟨h1, h2⟩
    have : k < 16 := BitVec.lt_of_getLsbD h1
    exact ⟨h1, List.mem_range.mpr this, fun j hj => by simpa using h2 j hj⟩

/-- A set of keys has no lowest key exactly when it is empty (R230). -/
theorem lowestKey_eq_none_iff {keys : BitVec 16} : lowestKey keys = none ↔ keys = 0 := by
  unfold lowestKey
  rw [List.find?_range_eq_none]
  constructor
  · intro h; apply BitVec.eq_of_getLsbD_eq; intro k hk; simpa using h k hk
  · rintro rfl k hk; simp

/-- Writing registers from `V[k]` on: those of the list take its bytes, the others keep their value (R265). -/
theorem getElem_setRegsFrom : ∀ (bytes : List Byte) (v : Vector Byte 16) (k j : Nat) (hj : j < 16),
    (setRegsFrom v k bytes)[j] = if h : k ≤ j ∧ j - k < bytes.length then bytes[j - k]'h.2 else v[j] := by
  intro bytes
  induction bytes with
  | nil => intro v k j hj; simp [setRegsFrom]
  | cons b bs ih =>
    intro v k j hj
    rw [setRegsFrom, ih]
    by_cases h1 : k = j
    · subst h1; simp
    · by_cases h2 : k + 1 ≤ j ∧ j - (k + 1) < bs.length
      · have h3 : k ≤ j ∧ j - k < (b :: bs).length := ⟨by omega, by simp only [List.length_cons]; omega⟩
        have h4 : j - k = (j - (k + 1)) + 1 := by omega
        rw [dif_pos h2, dif_pos h3]; simp [h4]
      · have h3 : ¬ (k ≤ j ∧ j - k < (b :: bs).length) := by simp only [List.length_cons]; omega
        rw [dif_neg h2, dif_neg h3]; simp [h1]

@[simp] theorem State.length_regsUpTo (s : State) (x : Reg) : (s.regsUpTo x).length = x.val + 1 := by
  have := x.isLt
  simp only [State.regsUpTo, List.length_take, Vector.length_toList]; omega

/-- The k-th stored register is `V[k]` (R264). -/
theorem State.getElem_regsUpTo (s : State) (x : Reg) (k : Nat) (h : k < (s.regsUpTo x).length) :
    (s.regsUpTo x)[k] = s.reg ⟨k, by have := x.isLt; simp only [State.length_regsUpTo] at h; omega⟩ := by
  simp [State.regsUpTo, State.reg]

@[simp] theorem length_bcdDigits (b : Byte) : (bcdDigits b).length = 3 := rfl

/-- A flag byte is 1 when the condition holds and 0 otherwise. -/
@[simp] theorem flagByte_true : flagByte true = 1 := rfl
@[simp] theorem flagByte_false : flagByte false = 0 := rfl

/-- One cycle of a countdown: it rests at 0, ticks when the phase fills up, and counts the phase otherwise (R310). -/
theorem countdown_cases (div : Nat) (t : Byte × Nat) :
    (t.1 = 0 ∧ countdown div t = t) ∨ (t.1 ≠ 0 ∧ t.2 + 1 = div ∧ countdown div t = (t.1 - 1, 0)) ∨
      (t.1 ≠ 0 ∧ t.2 + 1 ≠ div ∧ countdown div t = (t.1, t.2 + 1)) := by
  unfold countdown; split
  · next h => exact .inl ⟨h, rfl⟩
  · next h =>
    split
    · next h' => exact .inr (.inl ⟨h, h', rfl⟩)
    · next h' => exact .inr (.inr ⟨h, h', rfl⟩)

/-- A countdown keeps its phase below the divisor, and its phase 0 while it rests (R27, R310). -/
theorem countdown_keeps_range {div : Nat} {t : Byte × Nat} (h : t.2 < div) (h0 : t.1 = 0 → t.2 = 0) :
    (countdown div t).2 < div ∧ ((countdown div t).1 = 0 → (countdown div t).2 = 0) := by
  rcases countdown_cases div t with ⟨-, e⟩ | ⟨-, h1, e⟩ | ⟨h1, h2, e⟩ <;> rw [e]
  · exact ⟨h, h0⟩
  · exact ⟨by show 0 < div; omega, fun _ => rfl⟩
  · exact ⟨by show t.2 + 1 < div; omega, fun e' => absurd e' h1⟩

/-- `PresentLogic` changes `refresh_cnt` and `present_req` alone (R203, R204). -/
theorem State.presentLogic_frame (ins : Instr) (s : State) :
    s.presentLogic ins = { s with refreshCnt := (s.presentLogic ins).refreshCnt, presentReq := (s.presentLogic ins).presentReq } := by
  unfold State.presentLogic; split
  · rfl
  · split <;> rfl

/-- Sampling `quit_in` changes `run_state` and the inputs alone (R316). -/
theorem State.sampleQuit_frame (s : State) :
    s.sampleQuit = { s with runState := s.sampleQuit.runState, inputs := s.sampleQuit.inputs } := by
  unfold State.sampleQuit; split <;> rfl

end Sys2Proof.Machine
end

