-- ==== Sys2Proof/Laws/PerInstr.lean ====
section
/-! SUPPORT. What holds of every instruction as syntax, one lemma per constructor. -/

namespace Sys2Proof.Laws

/-- The fixed bits of form `A` are its top nibble (R92). -/
theorem formA_masked (op : BitVec 4) (nnn : Addr12) : formA op nnn &&& 0xF000 = formA op 0 := by
  show (op ++ nnn) &&& ((0xF : BitVec 4) ++ (0 : BitVec 12)) = op ++ (0 : BitVec 12)
  rw [BitVec.and_append]; congr 1
  · exact BitVec.and_allOnes
  · exact BitVec.and_zero

/-- The fixed bits of form `RK` are its top nibble (R92). -/
theorem formRK_masked (op : BitVec 4) (x : Reg) (kk : Byte) : formRK op x kk &&& 0xF000 = formRK op 0 0 := by
  show (op ++ BitVec.ofFin (w := 4) x ++ kk) &&& ((0xF : BitVec 4) ++ (0 : BitVec 4) ++ (0 : BitVec 8)) =
    op ++ (0 : BitVec 4) ++ (0 : BitVec 8)
  rw [BitVec.and_append, BitVec.and_append]; congr 1
  · congr 1
    · exact BitVec.and_allOnes
    · exact BitVec.and_zero
  · exact BitVec.and_zero

/-- The fixed bits of form `R` are its top nibble and its low byte (R92). -/
theorem formR_masked (op : BitVec 4) (x : Reg) (sub : Byte) : formRK op x sub &&& 0xF0FF = formRK op 0 sub := by
  show (op ++ BitVec.ofFin (w := 4) x ++ sub) &&& ((0xF : BitVec 4) ++ (0 : BitVec 4) ++ (0xFF : BitVec 8)) =
    op ++ (0 : BitVec 4) ++ sub
  rw [BitVec.and_append, BitVec.and_append]; congr 1
  · congr 1
    · exact BitVec.and_allOnes
    · exact BitVec.and_zero
  · exact BitVec.and_allOnes

/-- The fixed bits of form `RR` are its top and its low nibble (R92). -/
theorem formRR_masked (op : BitVec 4) (x y : Reg) (sub : BitVec 4) :
    formRRN op x y sub &&& 0xF00F = formRRN op 0 0 sub := by
  show (op ++ BitVec.ofFin (w := 4) x ++ BitVec.ofFin (w := 4) y ++ sub) &&&
    ((0xF : BitVec 4) ++ (0 : BitVec 4) ++ (0 : BitVec 4) ++ (0xF : BitVec 4)) =
    op ++ (0 : BitVec 4) ++ (0 : BitVec 4) ++ sub
  rw [BitVec.and_append, BitVec.and_append, BitVec.and_append]; congr 1
  · congr 1
    · congr 1
      · exact BitVec.and_allOnes
      · exact BitVec.and_zero
    · exact BitVec.and_zero
  · exact BitVec.and_allOnes

/-- The fixed bits of form `RRN` are its top nibble (R92). -/
theorem formRRN_masked (op : BitVec 4) (x y : Reg) (n : BitVec 4) : formRRN op x y n &&& 0xF000 = formRRN op 0 0 0 := by
  show (op ++ BitVec.ofFin (w := 4) x ++ BitVec.ofFin (w := 4) y ++ n) &&&
    ((0xF : BitVec 4) ++ (0 : BitVec 4) ++ (0 : BitVec 4) ++ (0 : BitVec 4)) =
    op ++ (0 : BitVec 4) ++ (0 : BitVec 4) ++ (0 : BitVec 4)
  rw [BitVec.and_append, BitVec.and_append, BitVec.and_append]; congr 1
  · congr 1
    · congr 1
      · exact BitVec.and_allOnes
      · exact BitVec.and_zero
    · exact BitVec.and_zero
  · exact BitVec.and_zero

namespace TableRow

/-- The word of an instruction lies in the instruction's row of the opcode table: under the row's mask it is the row's
match (R93). -/
def Statement (i : Instr) : Prop := encode i &&& (opcodeRow i).mask = (opcodeRow i).bits

theorem cls : Statement (.cls) := rfl
theorem ret : Statement (.ret) := rfl
theorem jp (nnn : Addr12) : Statement (.jp nnn) := (formA_masked 0x1 nnn).trans rfl
theorem call (nnn : Addr12) : Statement (.call nnn) := (formA_masked 0x2 nnn).trans rfl
theorem seK (x : Reg) (kk : Byte) : Statement (.seK x kk) := (formRK_masked 0x3 x kk).trans rfl
theorem sneK (x : Reg) (kk : Byte) : Statement (.sneK x kk) := (formRK_masked 0x4 x kk).trans rfl
theorem seR (x y : Reg) : Statement (.seR x y) := (formRR_masked 0x5 x y 0x0).trans rfl
theorem sneR (x y : Reg) : Statement (.sneR x y) := (formRR_masked 0x9 x y 0x0).trans rfl
theorem ldK (x : Reg) (kk : Byte) : Statement (.ldK x kk) := (formRK_masked 0x6 x kk).trans rfl
theorem ldR (x y : Reg) : Statement (.ldR x y) := (formRR_masked 0x8 x y 0x0).trans rfl
theorem addK (x : Reg) (kk : Byte) : Statement (.addK x kk) := (formRK_masked 0x7 x kk).trans rfl
theorem orR (x y : Reg) : Statement (.orR x y) := (formRR_masked 0x8 x y 0x1).trans rfl
theorem andR (x y : Reg) : Statement (.andR x y) := (formRR_masked 0x8 x y 0x2).trans rfl
theorem xorR (x y : Reg) : Statement (.xorR x y) := (formRR_masked 0x8 x y 0x3).trans rfl
theorem addR (x y : Reg) : Statement (.addR x y) := (formRR_masked 0x8 x y 0x4).trans rfl
theorem subR (x y : Reg) : Statement (.subR x y) := (formRR_masked 0x8 x y 0x5).trans rfl
theorem subnR (x y : Reg) : Statement (.subnR x y) := (formRR_masked 0x8 x y 0x7).trans rfl
theorem shrR (x y : Reg) : Statement (.shrR x y) := (formRR_masked 0x8 x y 0x6).trans rfl
theorem shlR (x y : Reg) : Statement (.shlR x y) := (formRR_masked 0x8 x y 0xE).trans rfl
theorem jpV0 (nnn : Addr12) : Statement (.jpV0 nnn) := (formA_masked 0xB nnn).trans rfl
theorem rnd (x : Reg) (kk : Byte) : Statement (.rnd x kk) := (formRK_masked 0xC x kk).trans rfl
theorem drw (x y : Reg) (n : BitVec 4) : Statement (.drw x y n) := (formRRN_masked 0xD x y n).trans rfl
theorem skp (x : Reg) : Statement (.skp x) := (formR_masked 0xE x 0x9E).trans rfl
theorem sknp (x : Reg) : Statement (.sknp x) := (formR_masked 0xE x 0xA1).trans rfl
theorem ldVxDt (x : Reg) : Statement (.ldVxDt x) := (formR_masked 0xF x 0x07).trans rfl
theorem ldVxK (x : Reg) : Statement (.ldVxK x) := (formR_masked 0xF x 0x0A).trans rfl
theorem ldDtVx (x : Reg) : Statement (.ldDtVx x) := (formR_masked 0xF x 0x15).trans rfl
theorem ldStVx (x : Reg) : Statement (.ldStVx x) := (formR_masked 0xF x 0x18).trans rfl
theorem ldI (nnn : Addr12) : Statement (.ldI nnn) := (formA_masked 0xA nnn).trans rfl
theorem addI (x : Reg) : Statement (.addI x) := (formR_masked 0xF x 0x1E).trans rfl
theorem ldF (x : Reg) : Statement (.ldF x) := (formR_masked 0xF x 0x29).trans rfl
theorem ldB (x : Reg) : Statement (.ldB x) := (formR_masked 0xF x 0x33).trans rfl
theorem ldMemVx (x : Reg) : Statement (.ldMemVx x) := (formR_masked 0xF x 0x55).trans rfl
theorem ldVxMem (x : Reg) : Statement (.ldVxMem x) := (formR_masked 0xF x 0x65).trans rfl

end TableRow

end Sys2Proof.Laws
end

