-- ==== Sys2Proof/Laws/Step.lean ====
section
/-! SUPPORT. What a master cycle is in each of its three cases, and a run of several. -/

namespace Sys2Proof.Machine

/-- A RUNNING core whose prescaler is at its last count runs an instruction cycle (R309, R311). -/
theorem step_of_tick {s : State} (hr : s.runState = .running) (ht : s.cpuCnt + 1 = s.cfg.cpuDiv) :
    step s = cpuTick s.beginCycle := by
  simp [step, masterCycle, hr, State.tickDue, ht]

/-- A RUNNING core whose prescaler is not at its last count only counts (R309, R311). -/
theorem step_of_idle {s : State} (hr : s.runState = .running) (ht : s.cpuCnt + 1 ≠ s.cfg.cpuDiv) :
    step s = .next s.beginCycle := by
  simp [step, masterCycle, hr, State.tickDue, ht]

/-- A core that is not RUNNING is frozen (R311). -/
theorem step_of_frozen {s : State} (hr : s.runState ≠ .running) : step s = .next s.endPulse := by
  cases h : s.runState <;> simp_all [step, masterCycle]

/-- `quit_in` is not sampled after a fault (R303, R316). -/
theorem State.sampleQuit_of_halted {s : State} (h : s.runState = .halted) : s.sampleQuit = s := by
  simp [State.sampleQuit, h]

/-- Sampling `quit_in` never leaves a RUNNING core HALTED (R316). -/
theorem State.sampleQuit_ne_halted {s : State} (h : s.runState = .running) : s.sampleQuit.runState ≠ .halted := by
  simp only [State.sampleQuit, h]; split <;> simp

/-- A run whose first master cycle answers `t` goes on from `t`. -/
theorem run_succ_of_next {s t : State} (h : step s = .next t) (n : Nat) :
    Host.Core.run core (n + 1) s = Host.Core.run core n t := by
  have h' : core.step s = .next t := h
  simp only [Host.Core.run]; rw [h']

end Sys2Proof.Machine
end

