-- ==== Sys2Proof/Tests/Slice0.lean ====
section
/-! SUPPORT. The model's own tests: what initialization refuses, the decoding of one word per constructor written out from
30_encoding.md R92 and R93, single steps whose results are vectors of 95_test_vectors.md, and, for each obligation with
hypotheses, a theorem that meets them. -/

namespace Sys2Proof.Tests

open Sys2Proof.Machine

/-! ## Helpers -/

/-- The reset state with a word at 0x200, under the conventions of 95_test_vectors.md. -/
def start (w : Nat) : State := State.reset.withFetchWord 16 w

/-- The state one master cycle later; the state itself if there is none. -/
def after (s : State) : State :=
  match step s with
  | .next t => t
  | .fault r => nomatch r
  | .refused _ => s

/-- A register file that holds some values and 0 elsewhere. -/
def regs (values : List (Reg × Byte)) : Vector Byte 16 := values.foldl (fun v p => v.set p.1 p.2) (Vector.replicate 16 0)

/-- Memory with some bytes from an address on, beside the reset state's. -/
def memWith (a : Nat) (bytes : List Byte) (s : State) : State := { s with mem := s.mem.writeBytes a bytes }

/-- A display with some pixels on. -/
def display (on : List (Fin 64 × Fin 32)) : Framebuffer := on.foldl (fun fb p => fb.setPixel p.1 p.2 true) Framebuffer.blank

/-- `s` with its environment scripted. -/
def scripted (keys : List (BitVec 16)) (rand : List Byte) (quit : List Bool) (s : State) : State :=
  { s with inputs := ⟨keys, rand, quit, 0⟩ }

/-- What a fault leaves to see: `run_state`, `PC` and the fault record. -/
def faultOf (s : State) : RunState × Word × FaultCode × Word × Option Word :=
  (s.runState, s.pc, s.faultCode, s.faultPc, s.faultWord)

/-! ## Initialization refuses each configuration R351 names -/

theorem test_default_configuration_accepted : Config.default.wellFormed 3584 = true := by decide
theorem test_rom_past_memory_refused : Config.default.wellFormed 3585 = false := by decide
theorem test_font_past_memory_refused :
    ({ Config.default with fontOffset := 0xFB1 } : Configuration).wellFormed 2 = false := by decide
theorem test_font_at_the_end_accepted :
    ({ Config.default with fontOffset := 0xFB0 } : Configuration).wellFormed 2 = true := by decide
theorem test_rom_over_font_refused :
    ({ Config.default with fontOffset := 0x1B1 } : Configuration).wellFormed 2 = false := by decide
theorem test_zero_cpu_div_refused : ({ Config.default with cpuDiv := 0 } : Configuration).wellFormed 2 = false := by decide
theorem test_zero_timer_div_refused :
    ({ Config.default with timerDiv := 0 } : Configuration).wellFormed 2 = false := by decide
theorem test_zero_refresh_refused :
    ({ Config.default with refreshK := 0 } : Configuration).wellFormed 2 = false := by decide
theorem test_refused_configuration_has_no_machine :
    State.initialize { Config.default with timerDiv := 0 } [0x00, 0xE0] = none := by decide

/-- The reset state is an initialization that succeeds (R350; log 3). -/
theorem test_reset_is_an_initialization : State.initialize Config.default [] = some State.reset := rfl

/-! ## Decoding, bit by bit from R92 and R93 -/

theorem test_decode_control :
    decode 0b0000_0000_1110_1110 = .instr .ret ∧ decode 0b0001_1010_1011_1100 = .instr (.jp 0xABC) ∧
    decode 0b0010_0011_0000_0001 = .instr (.call 0x301) ∧ decode 0b0011_0111_0100_0010 = .instr (.seK 7 0x42) ∧
    decode 0b0100_0111_0100_0010 = .instr (.sneK 7 0x42) ∧ decode 0b0101_0001_0010_0000 = .instr (.seR 1 2) ∧
    decode 0b1001_0001_0010_0000 = .instr (.sneR 1 2) ∧ decode 0b1011_1111_0000_0001 = .instr (.jpV0 0xF01) := by decide

theorem test_decode_alu :
    decode 0b0110_1010_0111_1011 = .instr (.ldK 0xA 0x7B) ∧ decode 0b0111_0010_0000_0001 = .instr (.addK 2 0x01) ∧
    decode 0b1000_0001_0010_0000 = .instr (.ldR 1 2) ∧ decode 0b1000_0001_0010_0001 = .instr (.orR 1 2) ∧
    decode 0b1000_0001_0010_0010 = .instr (.andR 1 2) ∧ decode 0b1000_0001_0010_0011 = .instr (.xorR 1 2) ∧
    decode 0b1000_0001_0010_0100 = .instr (.addR 1 2) ∧ decode 0b1000_0001_0010_0101 = .instr (.subR 1 2) ∧
    decode 0b1000_0001_0010_0110 = .instr (.shrR 1 2) ∧ decode 0b1000_0001_0010_0111 = .instr (.subnR 1 2) ∧
    decode 0b1000_0001_0010_1110 = .instr (.shlR 1 2) ∧ decode 0b1100_0011_0000_1111 = .instr (.rnd 3 0x0F) := by decide

theorem test_decode_display :
    decode 0b0000_0000_1110_0000 = .instr .cls ∧ decode 0b1101_0001_0010_0101 = .instr (.drw 1 2 5) := by decide

theorem test_decode_keys_timers :
    decode 0b1110_0101_1001_1110 = .instr (.skp 5) ∧ decode 0b1110_0101_1010_0001 = .instr (.sknp 5) ∧
    decode 0b1111_0101_0000_0111 = .instr (.ldVxDt 5) ∧ decode 0b1111_0101_0000_1010 = .instr (.ldVxK 5) ∧
    decode 0b1111_0101_0001_0101 = .instr (.ldDtVx 5) ∧ decode 0b1111_0101_0001_1000 = .instr (.ldStVx 5) := by decide

theorem test_decode_index_memory :
    decode 0b1010_0010_1111_0001 = .instr (.ldI 0x2F1) ∧ decode 0b1111_0101_0001_1110 = .instr (.addI 5) ∧
    decode 0b1111_0101_0010_1001 = .instr (.ldF 5) ∧ decode 0b1111_0101_0011_0011 = .instr (.ldB 5) ∧
    decode 0b1111_0101_0101_0101 = .instr (.ldMemVx 5) ∧ decode 0b1111_0101_0110_0101 = .instr (.ldVxMem 5) := by decide

/-- The illegal words FD1 to FD9. -/
theorem test_decode_rejects :
    decode 0x0000 = .unknownOpcode 0x0000 ∧ decode 0x0123 = .unknownOpcode 0x0123 ∧
    decode 0x5121 = .unknownOpcode 0x5121 ∧ decode 0x9AB1 = .unknownOpcode 0x9AB1 ∧
    decode 0x8008 = .unknownOpcode 0x8008 ∧ decode 0x800F = .unknownOpcode 0x800F ∧
    decode 0xE09F = .unknownOpcode 0xE09F ∧ decode 0xF000 = .unknownOpcode 0xF000 ∧
    decode 0xF0FF = .unknownOpcode 0xF0FF := by decide

/-- The table's word is the decoder's word: bit 15 is the top bit of the first byte in memory (R62). -/
theorem test_decode_table_word :
    decodeTableWord 16 0x12F0 = some (.jp 0x2F0) ∧ decodeTableWord 16 0x0123 = none := by decide

/-! ## Control transfer, vectors CF -/

theorem test_cf1_call : let t := after (start 0x2300)
    t.pc = 0x300 ∧ t.sp = 1 ∧ t.stack[0] = 0x202 := by decide
theorem test_cf3_call_overflows : let t := after { start 0x2200 with sp := 16 }
    faultOf t = (.halted, 0x200, .stackOverflow, 0x200, some 0x2200) ∧ t.sp = 16 := by decide
theorem test_cf2_ret_underflows :
    faultOf (after (start 0x00EE)) = (.halted, 0x200, .stackUnderflow, 0x200, some 0x00EE) := by decide
theorem test_cf14_ret : let t := after { start 0x00EE with sp := 1, stack := Vector.replicate 16 0x206 }
    t.pc = 0x206 ∧ t.sp = 0 := by decide
theorem test_cf4_jp : (after (start 0x1ABC)).pc = 0xABC := by decide
theorem test_cf6_jp_v0_wraps : (after { start 0xBFFF with v := regs [(0, 0xFF)] }).pc = 0x0FE := by decide
theorem test_cf7_se_skips : (after { start 0x3342 with v := regs [(3, 0x42)] }).pc = 0x204 := by decide
theorem test_cf8_se_falls_through : (after { start 0x3343 with v := regs [(3, 0x42)] }).pc = 0x202 := by decide
theorem test_cf9_sne_skips : (after { start 0x4343 with v := regs [(3, 0x42)] }).pc = 0x204 := by decide
theorem test_cf10_sne_falls_through : (after { start 0x4342 with v := regs [(3, 0x42)] }).pc = 0x202 := by decide
theorem test_cf11_se_registers : (after { start 0x5120 with v := regs [(1, 7), (2, 7)] }).pc = 0x204 := by decide
theorem test_cf12_sne_registers : (after { start 0x9120 with v := regs [(1, 7), (2, 8)] }).pc = 0x204 := by decide

/-! ## Arithmetic and logic, vectors AL and L1 -/

theorem test_al1_ld : (after (start 0x6A7B)).v = regs [(0xA, 0x7B)] := by decide
theorem test_al2_add_immediate_wraps :
    (after { start 0x7001 with v := regs [(0, 0xFF), (0xF, 0x55)] }).v = regs [(0xF, 0x55)] := by decide
theorem test_al3_ld_register :
    (after { start 0x8120 with v := regs [(2, 0x99)] }).v = regs [(1, 0x99), (2, 0x99)] := by decide
theorem test_l17_or : (after { start 0x8011 with v := regs [(0, 0x0F), (1, 0xF0), (0xF, 1)] }).v =
    regs [(0, 0xFF), (1, 0xF0)] := by decide
theorem test_l17_or_into_vf : (after { start 0x8F01 with v := regs [(0xF, 0x0F), (0, 0xF0)] }).v =
    regs [(0, 0xF0)] := by decide
theorem test_l17_and : (after { start 0x8012 with v := regs [(0, 0x0F), (1, 0xF0), (0xF, 1)] }).v =
    regs [(1, 0xF0)] := by decide
theorem test_l17_xor : (after { start 0x8013 with v := regs [(0, 0x0F), (1, 0xF0), (0xF, 1)] }).v =
    regs [(0, 0xFF), (1, 0xF0)] := by decide
theorem test_l18_add_with_itself : (after { start 0x8114 with v := regs [(1, 0x80)] }).v = regs [(0xF, 1)] := by decide
theorem test_l18_add_into_vf : (after { start 0x8F14 with v := regs [(0xF, 0xFF), (1, 1)] }).v =
    regs [(0xF, 1), (1, 1)] := by decide
theorem test_al5_sub_borrows : (after { start 0x8015 with v := regs [(0, 3), (1, 5), (0xF, 1)] }).v =
    regs [(0, 0xFE), (1, 5)] := by decide
theorem test_al6_sub_equal : (after { start 0x8015 with v := regs [(0, 5), (1, 5), (0xF, 1)] }).v =
    regs [(1, 5)] := by decide
theorem test_al7_subn : (after { start 0x8017 with v := regs [(0, 3), (1, 5)] }).v =
    regs [(0, 2), (1, 5), (0xF, 1)] := by decide
theorem test_al9_subn_borrows : (after { start 0x8017 with v := regs [(0, 5), (1, 3)] }).v =
    regs [(0, 0xFE), (1, 3)] := by decide
theorem test_al11_shr_legacy : (after { start 0x8016 with
    v := regs [(0, 5), (1, 0xFF)], cfg := { Config.default with legacyShift := true } }).v =
    regs [(0, 0x7F), (1, 0xFF), (0xF, 1)] := by decide
theorem test_al18_shr_vf : (after { start 0x8F06 with v := regs [(0xF, 3)] }).v = regs [(0xF, 1)] := by decide
theorem test_al14_shl : (after { start 0x801E with v := regs [(0, 0x81), (1, 1)] }).v =
    regs [(0, 2), (1, 1), (0xF, 1)] := by decide
theorem test_al17_shl_legacy : (after { start 0x801E with
    v := regs [(0, 0x7F), (1, 0x80)], cfg := { Config.default with legacyShift := true } }).v =
    regs [(1, 0x80), (0xF, 1)] := by decide
theorem test_al19_rnd : (after (scripted [] [0xA7] [] (start 0xC30F))).v = regs [(3, 0x07)] := by decide

/-! ## Display, vectors DS and L1.6 -/

theorem test_l16_cls : let t := after { start 0x00E0 with v := regs [(0xF, 0x5A)], fb := display [(3, 4)] }
    t.fb = display [] ∧ t.v = regs [(0xF, 0x5A)] := by decide
theorem test_ds3_drw_wraps : let t := after (memWith 0x300 [0xFF] { start 0xD011 with i := 0x300, v := regs [(0, 60)] })
    t.fb = display [(60, 0), (61, 0), (62, 0), (63, 0), (0, 0), (1, 0), (2, 0), (3, 0)] ∧ t.reg 15 = 0 := by decide
theorem test_ds5_drw_collides :
    let t := after (memWith 0x300 [0x81] { start 0xD011 with i := 0x300, fb := display [(0, 0), (1, 0)] })
    t.fb = display [(1, 0), (7, 0)] ∧ t.reg 15 = 1 := by decide

/-! ## Keys and timers, vectors KY and TM -/

theorem test_ky1_skp_key_index : let t := after (scripted [0xFFFF] [] [] { start 0xE09E with v := regs [(0, 0x10)] })
    faultOf t = (.halted, 0x200, .keyIndex, 0x200, some 0xE09E) ∧ t.keyPrev = 0 ∧ t.inputs.keys = [0xFFFF] := by decide
theorem test_ky2_skp : let t := after (scripted [0x0080] [] [] { start 0xE59E with v := regs [(5, 7)] })
    t.pc = 0x204 ∧ t.keyPrev = 0x0080 := by decide
theorem test_ky4_sknp : (after (scripted [0x0000] [] [] { start 0xE5A1 with v := regs [(5, 7)] })).pc = 0x204 := by decide
theorem test_ky5_wait_rewinds : let t := after (scripted [0x0000] [] [] (start 0xF20A))
    t.pc = 0x200 ∧ t.v = regs [] := by decide
theorem test_ky7_wait_takes_the_new_key : let t := after (scripted [0x0028] [] [] { start 0xF20A with keyPrev := 0x0008 })
    t.v = regs [(2, 5)] ∧ t.keyPrev = 0x0028 ∧ t.pc = 0x202 := by decide
theorem test_tm1_ceil : (after { start 0xF107 with dt := 4 }).v = regs [(1, 4)] := by decide
theorem test_tm2_floor : (after { start 0xF107 with
    dt := 4, cfg := { Config.default with dtReadRounding := .floor } }).v = regs [(1, 3)] := by decide
theorem test_tm1_load_delay : let t := after { start 0xF015 with v := regs [(0, 4)], dt := 9, dtPhase := 5 }
    t.dt = 4 ∧ t.dtPhase = 0 ∧ t.st = 0 := by decide
theorem test_l15_load_sound : let t := after { start 0xF018 with v := regs [(0, 30)] }
    t.st = 30 ∧ t.stPhase = 0 ∧ t.dt = 0 ∧ t.soundOn = true := by decide

/-! ## Address register and memory transfer, vectors IM -/

theorem test_im1_ld_i : (after (start 0xA2F0)).i = 0x2F0 := by decide
theorem test_im2_add_i_wraps : let t := after { start 0xF01E with i := 0xFFF, v := regs [(0, 1)] }
    t.i = 0 ∧ t.reg 15 = 1 := by decide
theorem test_im4_add_i_vf : let t := after { start 0xFF1E with i := 0x100, v := regs [(0xF, 5)] }
    t.i = 0x105 ∧ t.reg 15 = 0 := by decide
theorem test_im5_ld_f : (after { start 0xF029 with v := regs [(0, 0x1A)] }).i = 0x082 := by decide
theorem test_im7_ld_b : let t := after { start 0xF033 with i := 0xFFD, v := regs [(0, 255)] }
    t.mem.readBytes 0xFFD 3 = [2, 5, 5] ∧ t.i = 0xFFD := by decide
theorem test_im8_ld_b_out_of_bounds : let t := after { start 0xF033 with i := 0xFFE, v := regs [(0, 255)] }
    faultOf t = (.halted, 0x200, .memOob, 0x200, some 0xF033) ∧ t.mem = (start 0xF033).mem := by decide
theorem test_im10_store_registers :
    let t := after { start 0xFF55 with
      i := 0xFF0, v := #v[1, 2, 3, 4, 5, 6, 7, 8, 9, 10, 11, 12, 13, 14, 15, 16] }
    t.mem.readBytes 0xFF0 16 = [1, 2, 3, 4, 5, 6, 7, 8, 9, 10, 11, 12, 13, 14, 15, 16] ∧ t.i = 0 := by decide
theorem test_im11_store_out_of_bounds : let t := after { start 0xFF55 with i := 0xFF1 }
    faultOf t = (.halted, 0x200, .memOob, 0x200, some 0xFF55) ∧ t.i = 0xFF1 ∧ t.mem = (start 0xFF55).mem := by decide
theorem test_im12_load_out_of_bounds : let t := after { start 0xFF65 with i := 0xFF1, v := regs [(3, 7)] }
    faultOf t = (.halted, 0x200, .memOob, 0x200, some 0xFF65) ∧ t.v = regs [(3, 7)] := by decide
theorem test_im13_load_registers : let t := after (memWith 0x30F [0xAB] { start 0xFF65 with i := 0x300 })
    t.reg 15 = 0xAB ∧ t.i = 0x310 := by decide

/-! ## The cycle, vectors FD, DS12, TM5, TM7, TM8 -/

theorem test_fd15_reset_halts :
    faultOf (after State.reset) = (.halted, 0x200, .unknownOpcode, 0x200, some 0x0000) := by decide
theorem test_fd11_misaligned_first :
    faultOf (after { State.reset with pc := 0xFFF }) = (.halted, 0xFFF, .pcMisaligned, 0xFFF, none) := by decide
theorem test_fd12_pc_out_of_bounds :
    faultOf (after { State.reset with pc := 0x1000 }) = (.halted, 0x1000, .pcOob, 0x1000, none) := by decide
theorem test_ds12_present_every_second :
    let s := { start 0x00E0 with cfg := { Config.default with refreshK := 2 } }
    (after s).presentReq = false ∧ (after s).refreshCnt = 1 ∧
    (after { s with refreshCnt := 1 }).presentReq = true ∧ (after { s with refreshCnt := 1 }).refreshCnt = 0 := by decide
theorem test_tm5_countdown_before_the_fault :
    let t := after { State.reset with dt := 5, dtPhase := 1, cfg := { Config.default with timerDiv := 2 } }
    t.runState = .halted ∧ t.dt = 4 ∧ t.dtPhase = 0 := by decide
theorem test_tm7_prescaler : let t := after { State.reset with cfg := { Config.default with cpuDiv := 3 } }
    t.pc = 0x200 ∧ t.cpuCnt = 1 ∧ t.runState = .running := by decide
theorem test_tm8_quit_stops : let t := after (scripted [] [] [true, false] (start 0x6102))
    t.runState = .stopped ∧ t.v = regs [(1, 2)] ∧ t.pc = 0x202 ∧ t.inputs.quit = [false] := by decide

/-! ## Witnesses: states and operands that meet the hypotheses of each obligation, each clause at a boundary -/

/-- A state between two CPU ticks: `CPU_DIV` 3, `cpu_cnt` 0, the delay clock in its last phase. -/
def slow : State := { State.reset with cfg := { Config.default with cpuDiv := 3 }, dt := 1, dtPhase := 9 }

theorem slow_inv : slow.Inv := by constructor <;> decide

theorem witness_EncodeOfDecodeIsTheWord : decode 0x8FFE = .instr (.shlR 15 15) := by decide

theorem witness_RetPopsTheStackOrUnderflows :
    ({ State.reset with sp := 1 } : State).sp.val = (0 : Fin 16).val + 1 ∧
    ({ State.reset with sp := 16 } : State).sp.val = (15 : Fin 16).val + 1 ∧ State.reset.sp.val = 0 := by decide

theorem witness_CallPushesThePcOrOverflows :
    State.reset.sp.val = (0 : Fin 16).val ∧ ({ State.reset with sp := 15 } : State).sp.val = (15 : Fin 16).val ∧
    ({ State.reset with sp := 16 } : State).sp.val = 16 ∧ (0x2FFF : Word).toNat = 0x2000 + (0xFFF : Addr12).toNat := by
  decide

theorem witness_CallThenRetComesBack : ({ State.reset with sp := 15 } : State).sp.val < 16 := by decide

/-- A byte that is the OR, one that is the AND and one that is the XOR of V0 = 0F and V1 = 3C, bit by bit. -/
theorem witness_LogicClearsVf : let s := { State.reset with v := regs [(0, 0x0F), (1, 0x3C)] }
    (∀ k < 8, (0x3F : Byte).getLsbD k = ((s.reg 0).getLsbD k || (s.reg 1).getLsbD k)) ∧
    (∀ k < 8, (0x0C : Byte).getLsbD k = ((s.reg 0).getLsbD k && (s.reg 1).getLsbD k)) ∧
    (∀ k < 8, (0x33 : Byte).getLsbD k = ((s.reg 0).getLsbD k ^^ (s.reg 1).getLsbD k)) := by decide

theorem witness_ShiftsTakeTheConfiguredOperand :
    let s := { State.reset with v := regs [(0, 5), (1, 0xFF)] }
    let l := { s with cfg := { Config.default with legacyShift := true } }
    5 = (if s.cfg.legacyShift then (s.reg 1).toNat else (s.reg 0).toNat) ∧
    255 = (if l.cfg.legacyShift then (l.reg 1).toNat else (l.reg 0).toNat) := by decide

theorem witness_RndMasksOneDraw : (scripted [] [0xA7] [] State.reset).inputs.rand = 0xA7 :: [] := by decide

/-- No rows at the last address, one row at the last address, 15 rows that end at the last address; a pixel the sprite
meets in a wrapped column and row, and a pixel it does not meet. -/
theorem witness_DrwXorsTheSprite :
    let s := { State.reset with i := 0xFFF, v := regs [(0, 60), (1, 31)] }
    let u := { State.reset with i := 0xFF1 }
    ((0 : BitVec 4).toNat = 0) ∧ (s.i.toNat + (1 : BitVec 4).toNat - 1 ≤ 0xFFF) ∧
    (u.i.toNat + (15 : BitVec 4).toNat - 1 ≤ 0xFFF) ∧
    ((3 : Fin 64).val = ((s.reg 0).toNat % 64 + 7) % 64 ∧ (1 : Fin 32).val = ((s.reg 1).toNat % 32 + 2) % 32) ∧
    (∀ i < 2, ∀ j < 8, ¬ ((4 : Fin 64).val = ((s.reg 0).toNat % 64 + j) % 64 ∧
      (0 : Fin 32).val = ((s.reg 1).toNat % 32 + i) % 32)) ∧
    (0 < (2 : BitVec 4).toNat ∧ 0xFFF < s.i.toNat + (2 : BitVec 4).toNat - 1 ∧
      (0xD012 : Word).toNat = 0xD000 + 256 * (0 : Reg).val + 16 * (1 : Reg).val + (2 : BitVec 4).toNat) := by decide

/-- A draw that turns a pixel off, and one that turns none off. -/
theorem witness_DrwCollidesIffAPixelGoesOff :
    let s := memWith 0x300 [0x80] { State.reset with i := 0x300, fb := display [(0, 0)] }
    let u := memWith 0x300 [0x80] { State.reset with i := 0x300 }
    s.i.toNat + (1 : BitVec 4).toNat - 1 ≤ 0xFFF ∧
    (∃ t, exec (.drw 0 0 1) s = .next t ∧ s.fbRd 0 0 = true ∧ t.fbRd 0 0 = false) ∧
    (∃ t, exec (.drw 0 0 1) u = .next t ∧ ¬ ∃ c r, u.fbRd c r = true ∧ t.fbRd c r = false) ∧
    ((63 : Fin 64).val = (63 % 64 + 0) % 64 ∧ (0 : Fin 32).val = (31 % 32 + 1) % 32) ∧
    (s.memByte s.i.toNat).getLsbD (7 - 1) = false :=
  ⟨by decide, ⟨_, rfl, by decide, by decide⟩, ⟨_, rfl, by rintro ⟨c, r, h, -⟩; simp [memWith, State.fbRd, State.reset,
    State.initial, Framebuffer.pixel, Framebuffer.blank] at h⟩, by decide, by decide⟩

/-- A sprite with a 1 bit on a blank display, whose first draw turns a pixel on; and a blank sprite. -/
theorem witness_DrawingTwiceRestoresTheDisplay :
    let s := memWith 0xFFF [0x80] { State.reset with i := 0xFFF }
    (0 : Reg) ≠ 15 ∧ (14 : Reg) ≠ 15 ∧ s.i.toNat + (1 : BitVec 4).toNat - 1 ≤ 0xFFF ∧ (∀ c r, s.fbRd c r = false) ∧
    (∃ i < (1 : BitVec 4).toNat, s.memByte (s.i.toNat + i) ≠ 0) ∧
    (∃ t, exec (.drw 0 14 1) s = .next t ∧ s.fbRd 0 0 = false ∧ t.fbRd 0 0 = true) ∧
    (∃ t, exec (.drw 0 14 0) s = .next t ∧ ¬ ∃ c r, s.fbRd c r = false ∧ t.fbRd c r = true) :=
  ⟨by decide, by decide, by decide, fun c r => by simp [memWith, State.fbRd, State.reset, State.initial, Framebuffer.pixel,
    Framebuffer.blank], ⟨0, by decide, by decide⟩, ⟨_, rfl, by decide, by decide⟩, ⟨_, rfl, by
    rintro ⟨c, r, h, h'⟩; exact absurd (h.symm.trans h') (by decide)⟩⟩

theorem witness_KeySkipsTestTheFreshSample :
    (({ State.reset with v := regs [(5, 0xF)] } : State).reg 5).toNat ≤ 0xF ∧
    (scripted [0x8000] [] [] State.reset).inputs.keys = 0x8000 :: [] ∧
    0xF < (({ State.reset with v := regs [(5, 0x10)] } : State).reg 5).toNat ∧
    (0xE59E : Word).toNat = 0xE09E + 256 * (5 : Reg).val ∧ (0xE5A1 : Word).toNat = 0xE0A1 + 256 * (5 : Reg).val := by decide

/-- Key 15 is new and key 0 is held; then every pressed key is held. -/
theorem witness_WaitForKeyWritesTheLowestNewKey : let s := { State.reset with keyPrev := 0x0001 }
    ((0x8001 : BitVec 16).getLsbD (15 : Fin 16).val = true ∧ s.keyPrev.getLsbD (15 : Fin 16).val = false ∧
      ∀ j < (15 : Fin 16).val, (0x8001 : BitVec 16).getLsbD j = true → s.keyPrev.getLsbD j = true) ∧
    (∀ k : Fin 16, (0x0001 : BitVec 16).getLsbD k = true → s.keyPrev.getLsbD k = true) := by decide

theorem witness_DelayReadbackRounds :
    let f := { State.reset with dt := 1, dtPhase := 1, cfg := { Config.default with dtReadRounding := .floor } }
    State.reset.cfg.dtReadRounding = .ceil ∧ (f.cfg.dtReadRounding = .floor ∧ 0 < f.dt.toNat ∧ 0 < f.dtPhase) ∧
    (({ f with dtPhase := 0 } : State).cfg.dtReadRounding = .floor ∧
      ¬ (0 < ({ f with dtPhase := 0 } : State).dt.toNat ∧ 0 < ({ f with dtPhase := 0 } : State).dtPhase)) := by decide

theorem witness_BcdStoresThreeDigits :
    State.reset.mem.wf ∧ ({ State.reset with i := 0xFFD } : State).i.toNat + 2 ≤ 0xFFF ∧
    0xFFF < ({ State.reset with i := 0xFFE } : State).i.toNat + 2 ∧
    (0xF533 : Word).toNat = 0xF033 + 256 * (5 : Reg).val := by decide

theorem witness_StoreRegistersWritesTheBlock :
    State.reset.mem.wf ∧ ({ State.reset with i := 0xFF0 } : State).i.toNat + (15 : Reg).val ≤ 0xFFF ∧
    0xFFF < ({ State.reset with i := 0xFF1 } : State).i.toNat + (15 : Reg).val ∧
    (0xFF55 : Word).toNat = 0xF055 + 256 * (15 : Reg).val := by decide

theorem witness_LoadRegistersReadsTheBlock :
    ({ State.reset with i := 0xFF0 } : State).i.toNat + (15 : Reg).val ≤ 0xFFF ∧
    0xFFF < ({ State.reset with i := 0xFF1 } : State).i.toNat + (15 : Reg).val ∧
    (0xFF65 : Word).toNat = 0xF065 + 256 * (15 : Reg).val := by decide

theorem witness_StoreThenLoadRestoresRegisters :
    State.reset.mem.wf ∧ ({ State.reset with i := 0xFF0 } : State).i.toNat + (15 : Reg).val ≤ 0xFFF := by decide

theorem witness_StoreIsSeenByTheNextFetch : let s := { State.reset with i := 0xFF0 }
    let b := { State.reset with i := 0xFFD }
    (s.mem.wf ∧ s.i.toNat + (15 : Reg).val ≤ 0xFFF ∧ (0xFFE : Word).toNat = s.i.toNat + (14 : Reg).val ∧
      (0xFFE : Word).toNat + 1 = s.i.toNat + (15 : Reg).val) ∧
    (b.mem.wf ∧ b.i.toNat + 2 ≤ 0xFFF ∧ (0xFFE : Word).toNat = b.i.toNat + (1 : Fin 3).val ∧
      (0xFFC : Word).toNat + 1 = b.i.toNat + (0 : Fin 3).val) := by decide

/-- The instruction `LD V0, 0` meets the premise of every clause. -/
theorem witness_MemoryStackDisplayAndKeysHaveTheirWriters : let i := Instr.ldK 0 0
    (∀ x, i ≠ .ldB x ∧ i ≠ .ldMemVx x) ∧ i ≠ .ret ∧ (∀ nnn, i ≠ .call nnn) ∧ i ≠ .cls ∧ (∀ x y n, i ≠ .drw x y n) ∧
    (∀ x, i ≠ .skp x ∧ i ≠ .sknp x ∧ i ≠ .ldVxK x) := by simp

/-- The instruction `LD V14, 0` meets the premise of every clause. -/
theorem witness_FlagIndexAndTimersHaveTheirWriters : let i := Instr.ldK 14 0
    (14 : Reg) ≠ 15 ∧ (∀ nnn x, i ≠ .ldI nnn ∧ i ≠ .addI x ∧ i ≠ .ldF x ∧ i ≠ .ldMemVx x ∧ i ≠ .ldVxMem x) ∧
    (∀ x, i ≠ .ldDtVx x) ∧ (∀ x, i ≠ .ldStVx x) := by simp

theorem witness_NoInstructionWritesTheClocking : ownFault .ret { State.reset with sp := 1 } = none := by decide

theorem witness_InstructionsFaultExactlyOnTheirCondition :
    State.reset.runState = .running ∧ ownFault .ret State.reset = some .stackUnderflow ∧
    ownFault (.drw 0 0 15) { State.reset with i := 0xFF2 } = some .memOob ∧
    ownFault (.drw 0 0 15) { State.reset with i := 0xFF1 } = none := by decide

theorem witness_SoundClockIsInvisibleToPrograms :
    (∀ x, Instr.ldVxDt 0 ≠ .ldStVx x) ∧ ∃ t, exec (.ldVxDt 0) State.reset = .next t := ⟨by simp, _, rfl⟩

theorem witness_InputsReachOnlyTheirInstructions :
    (∀ x kk, Instr.cls ≠ .skp x ∧ Instr.cls ≠ .sknp x ∧ Instr.cls ≠ .ldVxK x ∧ Instr.cls ≠ .rnd x kk) ∧
    ∃ t, exec .cls State.reset = .next t := ⟨by simp, _, rfl⟩

/-- The last word of memory, at the last CPU tick of three. -/
theorem witness_StepRunsTheDecodedInstruction :
    let s := memWith 0xFFE [0x00, 0xE0] { slow with cpuCnt := 2, pc := 0xFFE }
    (s.runState = .running ∧ s.cpuCnt + 1 = s.cfg.cpuDiv ∧ s.pc.toNat % 2 = 0 ∧ s.pc.toNat ≤ 0xFFE) ∧
    decode s.fetchWord = .instr .cls ∧ ∃ t, exec .cls { s.beginCycle with pc := s.pc + 2 } = .next t :=
  ⟨by decide, by decide, _, rfl⟩

theorem witness_FetchFaultsOnABadPc :
    (State.reset.runState = .running ∧ State.reset.cpuCnt + 1 = State.reset.cfg.cpuDiv) ∧ (0xFFF : Word).toNat % 2 = 1 ∧
    (0x1000 : Word).toNat % 2 = 0 ∧ 0xFFE < (0x1000 : Word).toNat := by decide

theorem witness_UnknownOpcodeHalts : let s := State.reset
    (s.runState = .running ∧ s.cpuCnt + 1 = s.cfg.cpuDiv ∧ s.pc.toNat % 2 = 0 ∧ s.pc.toNat ≤ 0xFFE) ∧
    s.fetchWord = 0x0000 ∧ ¬ ∃ i, decode 0x0000 = .instr i :=
  ⟨by decide, by decide, by rintro ⟨i, h⟩; rw [show decode 0x0000 = .unknownOpcode 0x0000 from by decide] at h; cases h⟩

theorem witness_FaultsArePrecise :
    State.reset.runState = .running ∧ ∃ t, step State.reset = .next t ∧ t.runState = .halted :=
  ⟨by decide, _, rfl, by decide⟩

theorem witness_HaltedAndStoppedAreFrozen :
    ({ State.reset with runState := .halted } : State).runState ≠ .running ∧
    ({ State.reset with runState := .stopped } : State).runState ≠ .running := by decide

theorem witness_QuitStopsAfterACompletedInstruction : let s := scripted [] [] [true, false] (start 0x6102)
    s.runState = .running ∧ s.cpuCnt + 1 = s.cfg.cpuDiv ∧ s.inputs.quit = true :: [false] ∧
    ∃ t, step s = .next t ∧ t.runState ≠ .halted := ⟨by decide, by decide, by decide, _, rfl, by decide⟩

theorem witness_CountdownFollowsTheDivisionLaw : 1 ≤ 1 ∧ 1 ≤ 10 := by decide

theorem witness_IdleCyclesOnlyCountDown : slow.Inv ∧ slow.runState = .running ∧ slow.cpuCnt + 2 < slow.cfg.cpuDiv :=
  ⟨slow_inv, by decide, by decide⟩

/-- Lazy mode; interval mode at the last count; interval mode before it. -/
theorem witness_PresentRequestFollowsTheMode :
    let s := start 0x00E0
    let l := { s with cfg := { Config.default with lazyRender := true } }
    let k := { s with cfg := { Config.default with refreshK := 2 } }
    (s.runState = .running ∧ s.cpuCnt + 1 = s.cfg.cpuDiv ∧ s.pc.toNat % 2 = 0 ∧ s.pc.toNat ≤ 0xFFE) ∧
    decode s.fetchWord = .instr .cls ∧ (∃ t, step s = .next t ∧ t.runState ≠ .halted) ∧
    (∃ t, step l = .next t ∧ t.runState ≠ .halted) ∧ l.cfg.lazyRender = true ∧
    (s.cfg.lazyRender = false ∧ s.refreshCnt + 1 = s.cfg.refreshK) ∧
    (∃ t, step k = .next t ∧ t.runState ≠ .halted) ∧ (k.cfg.lazyRender = false ∧ k.refreshCnt + 1 ≠ k.cfg.refreshK) :=
  ⟨by decide, by decide, ⟨_, rfl, by decide⟩, ⟨_, rfl, by decide⟩, by decide, by decide, ⟨_, rfl, by decide⟩, by decide⟩

theorem witness_ConfigurationNeverChanges : ∃ t, step slow = .next t := ⟨_, rfl⟩

/-- A ROM of one byte at the last address, and one of length 0. -/
theorem witness_InitializationLeavesTheResetValues :
    (∃ s, State.initialize { Config.default with loadOffset := 0xFFF } [0xE0] = some s) ∧
    ∃ s, State.initialize Config.default [] = some s := ⟨⟨_, rfl⟩, ⟨_, rfl⟩⟩

theorem witness_InitializationEstablishesTheInvariant :
    ∃ s, State.initialize { Config.default with fontOffset := 0xFB0 } [0x00, 0xE0] = some s := ⟨_, rfl⟩

theorem witness_EveryStepKeepsTheInvariant : slow.Inv ∧ ∃ t, step slow = .next t := ⟨slow_inv, _, rfl⟩

theorem witness_PlacedWordIsFetchedNext :
    slow.Inv ∧ slow.runState = .running ∧ slow.pc.toNat % 2 = 0 ∧ slow.pc.toNat ≤ 0xFFE ∧ 65535 < 65536 :=
  ⟨slow_inv, by decide, by decide, by decide, by decide⟩

theorem witness_MasterCycleStartsWithTheCountdowns :
    slow.runState = .running ∧ slow.cpuCnt + 1 ≠ slow.cfg.cpuDiv ∧ (1 : Byte) ≠ 0 ∧ 9 + 1 = 10 ∧ 8 + 1 ≠ 10 := by decide

/-- A cycle that loads no timer, one that loads DT and one that loads ST. -/
theorem witness_EveryMasterCycleCountsDown :
    (slow.runState = .running ∧ (∃ t, step slow = .next t) ∧ ∀ i, ¬ TickRuns slow i) ∧
    (∃ t, step (start 0xF515) = .next t) ∧ TickRuns (start 0xF515) (.ldDtVx 5) ∧
    (∃ t, step (start 0xF518) = .next t) ∧ TickRuns (start 0xF518) (.ldStVx 5) :=
  ⟨⟨by decide, ⟨_, rfl⟩, fun i h => absurd h.1.2.1 (by decide)⟩, ⟨_, rfl⟩,
    ⟨⟨by decide, by decide, by decide, by decide⟩, by decide⟩, ⟨_, rfl⟩, ⟨⟨by decide, by decide, by decide, by decide⟩, by decide⟩⟩

/-- A load of 4 into a timer at 0x200, then a CLS: two master cycles of a RUNNING core. -/
def loadThenCls (w : Nat) (k : Nat) : State :=
  let s := memWith 0x202 [0x00, 0xE0] { start w with v := regs [(5, 4)] }
  match k with
  | 0 => s
  | 1 => after s
  | _ => after (after s)

theorem witness_TimersFollowTheirLoads :
    (∀ k ≤ 1, (loadThenCls 0xF515 k).runState = .running ∧
      step (loadThenCls 0xF515 k) = .next (loadThenCls 0xF515 (k + 1))) ∧
    TickRuns (loadThenCls 0xF515 0) (.ldDtVx 5) ∧ (∀ y, ¬ TickRuns (loadThenCls 0xF515 1) (.ldDtVx y)) ∧
    (∀ k ≤ 1, (loadThenCls 0xF518 k).runState = .running ∧
      step (loadThenCls 0xF518 k) = .next (loadThenCls 0xF518 (k + 1))) ∧
    TickRuns (loadThenCls 0xF518 0) (.ldStVx 5) ∧ (∀ y, ¬ TickRuns (loadThenCls 0xF518 1) (.ldStVx y)) := by
  have hd : decode (loadThenCls 0xF515 1).fetchWord = .instr .cls := by decide
  have hs : decode (loadThenCls 0xF518 1).fetchWord = .instr .cls := by decide
  refine ⟨fun k hk => ?_, ⟨⟨by decide, by decide, by decide, by decide⟩, by decide⟩, fun y h => ?_, fun k hk => ?_,
    ⟨⟨by decide, by decide, by decide, by decide⟩, by decide⟩, fun y h => ?_⟩
  · obtain rfl | rfl : k = 0 ∨ k = 1 := by omega
    · exact ⟨by decide, rfl⟩
    · exact ⟨by decide, rfl⟩
  · rw [TickRuns, hd] at h; simp at h
  · obtain rfl | rfl : k = 0 ∨ k = 1 := by omega
    · exact ⟨by decide, rfl⟩
    · exact ⟨by decide, rfl⟩
  · rw [TickRuns, hs] at h; simp at h

end Sys2Proof.Tests
end

section
/-! PROOFS. What an instruction does: the state it leaves when it raises no fault (`effect`), and the two equations that
tie `exec` to it, one for each answer of `ownFault`. -/

namespace Sys2Proof.Machine

/-- The state an instruction leaves when it raises no fault (R142 to R149, R171 to R182, R205, R206, R231 to R236, R260 to
R265). `exec_of_ownFault_eq_none` ties it to `exec`. -/
def effect (i : Instr) (s : State) : State :=
  match i with
  | .cls => s.setFb Framebuffer.blank
  | .ret => { s with pc := s.stack[s.sp.val - 1], sp := s.sp - 1 }
  | .jp nnn => s.jump (nnn.zeroExtend 16)
  | .call nnn => { s with pc := nnn.zeroExtend 16, stack := s.stack.setIfInBounds s.sp.val s.pc, sp := s.sp + 1 }
  | .seK x kk => s.skipIf (s.reg x == kk)
  | .sneK x kk => s.skipIf (s.reg x != kk)
  | .seR x y => s.skipIf (s.reg x == s.reg y)
  | .sneR x y => s.skipIf (s.reg x != s.reg y)
  | .ldK x kk => s.setReg x kk
  | .ldR x y => s.setReg x (s.reg y)
  | .addK x kk => s.setReg x (BitVec.ofNat 8 ((s.reg x).toNat + kk.toNat))
  | .orR x y => s.setResultFlag x (s.reg x ||| s.reg y) logicFlag
  | .andR x y => s.setResultFlag x (s.reg x &&& s.reg y) logicFlag
  | .xorR x y => s.setResultFlag x (s.reg x ^^^ s.reg y) logicFlag
  | .addR x y =>
    s.setResultFlag x (BitVec.ofNat 8 ((s.reg x).toNat + (s.reg y).toNat)) (carryFlag (s.reg x) (s.reg y))
  | .subR x y =>
    s.setResultFlag x (BitVec.ofNat 8 ((s.reg x).toNat + 256 - (s.reg y).toNat)) (greaterFlag (s.reg x) (s.reg y))
  | .subnR x y =>
    s.setResultFlag x (BitVec.ofNat 8 ((s.reg y).toNat + 256 - (s.reg x).toNat)) (greaterFlag (s.reg y) (s.reg x))
  | .shrR x y => s.setResultFlag x (s.shiftOperand x y >>> 1) (lowBitFlag (s.shiftOperand x y))
  | .shlR x y => s.setResultFlag x (s.shiftOperand x y <<< 1) (highBitFlag (s.shiftOperand x y))
  | .jpV0 nnn => s.jump (s.indexedTarget nnn)
  | .rnd x kk => s.randDrawn.setReg x (s.randNow &&& kk)
  | .drw x y n =>
    let blit := spriteBlit s.fb (s.drawColumn x) (s.drawRow y) (s.mem.readBytes s.i.toNat n.toNat)
    (s.setFb blit.1).setReg flagReg (collisionFlag blit.2)
  | .skp x => s.keyRefresh.skipIf (s.keysNow.getLsbD (s.reg x).toNat)
  | .sknp x => s.keyRefresh.skipIf (!s.keysNow.getLsbD (s.reg x).toNat)
  | .ldVxDt x => s.setReg x s.dtRead
  | .ldVxK x => (s.keyRefresh.storeKey x s.newKey).rewindIf s.newKey.isNone
  | .ldDtVx x => s.loadDelay (s.reg x)
  | .ldStVx x => s.loadSound (s.reg x)
  | .ldI nnn => s.setI nnn.toNat
  | .addI x => (s.setI (s.i.toNat + (s.reg x).toNat)).setReg flagReg (indexFlag s.i (s.reg x))
  | .ldF x => s.setI (s.glyphAddress x)
  | .ldB x => { s with mem := s.mem.writeBytes s.i.toNat (bcdDigits (s.reg x)) }
  | .ldMemVx x =>
    ({ s with mem := s.mem.writeBytes s.i.toNat (s.regsUpTo x) } : State).setI (s.i.toNat + x.val + 1)
  | .ldVxMem x =>
    ({ s with v := setRegsFrom s.v 0 (s.mem.readBytes s.i.toNat (x.val + 1)) } : State).setI (s.i.toNat + x.val + 1)

/-! The fault conditions of R300 as the operations check them. -/

/-- A fault under a condition that fails exactly when `q` holds is a fault unless `q` holds. -/
theorem ite_some_none_of_iff_not {p q : Prop} [Decidable p] [Decidable q] {code : FaultCode} (h : p ↔ ¬ q) :
    (if p then some code else none) = if q then none else some code := by
  simp only [h, ite_not]

/-- DRW faults exactly when a byte of its sprite lies outside memory (R206, R300). -/
theorem ownFault_drw (x y : Reg) (n : BitVec 4) (s : State) :
    ownFault (.drw x y n) s = if spanInBounds s.i.toNat n.toNat then none else some .memOob :=
  ite_some_none_of_iff_not (by unfold spanInBounds memSize; omega)

/-- LD B faults exactly when a digit would lie outside memory (R263, R300). -/
theorem ownFault_ldB (x : Reg) (s : State) :
    ownFault (.ldB x) s = if spanInBounds s.i.toNat (bcdDigits (s.reg x)).length then none else some .memOob :=
  ite_some_none_of_iff_not (by rw [length_bcdDigits]; unfold spanInBounds memSize; omega)

/-- LD [I] faults exactly when a register would be stored outside memory (R264, R300). -/
theorem ownFault_ldMemVx (x : Reg) (s : State) :
    ownFault (.ldMemVx x) s = if spanInBounds s.i.toNat (s.regsUpTo x).length then none else some .memOob :=
  ite_some_none_of_iff_not (by rw [State.length_regsUpTo]; unfold spanInBounds memSize; omega)

/-- LD Vx, [I] faults exactly when a register would be loaded from outside memory (R265, R300). -/
theorem ownFault_ldVxMem (x : Reg) (s : State) :
    ownFault (.ldVxMem x) s = if spanInBounds s.i.toNat (x.val + 1) then none else some .memOob :=
  ite_some_none_of_iff_not (by unfold spanInBounds memSize; omega)

/-- A fault raised unless `p` holds is not raised only when `p` holds. -/
theorem of_ite_none_some_eq_none {p : Prop} [Decidable p] {code : FaultCode}
    (h : (if p then none else some code) = none) : p := by
  by_contra hp; rw [if_neg hp] at h; cases h

/-- RET with an entry in use is its effect: the last entry, freed, is the next `PC` (R141, R142). -/
theorem execRet_of_pos {s : State} (h : 0 < s.sp.val) : execRet s = .next (effect .ret s) := by
  have hsp : s.sp - 1 = (⟨s.sp.val - 1, by omega⟩ : Fin 17) := by grind
  have hpop : s.pop = some (s.stack[s.sp.val - 1], { s with sp := s.sp - 1 }) := by
    rw [State.pop_eq_some_iff, hsp]; exact ⟨h, rfl, rfl⟩
  simp only [execRet, hpop]; rfl

/-- CALL with a free entry is its effect: the advanced `PC` is the new last entry (R140, R144). -/
theorem execCall_of_lt {s : State} (nnn : Addr12) (h : s.sp.val < 16) :
    execCall nnn s = .next (effect (.call nnn) s) := by
  have hsp : s.sp + 1 = (⟨s.sp.val + 1, by omega⟩ : Fin 17) := by grind
  have hstack : s.stack.setIfInBounds s.sp.val s.pc = s.stack.set s.sp.val s.pc := by grind
  have hpush : s.push s.pc = some { s with stack := s.stack.setIfInBounds s.sp.val s.pc, sp := s.sp + 1 } := by
    rw [State.push_eq_some_iff, hsp, hstack]; exact ⟨h, rfl⟩
  simp only [execCall, hpush]; rfl

/-- An instruction whose fault condition of R300 does not hold has its effect (R128). -/
theorem exec_of_ownFault_eq_none {i : Instr} {s : State} (h : ownFault i s = none) : exec i s = .next (effect i s) := by
  cases i with
  | ret => exact execRet_of_pos (by simpa [ownFault, Nat.pos_iff_ne_zero] using h)
  | call nnn =>
    have hsp : s.sp.val ≠ 16 := by simpa [ownFault] using h
    exact execCall_of_lt nnn (by have := s.sp.isLt; omega)
  | drw x y n =>
    have hb := of_ite_none_some_eq_none ((ownFault_drw x y n s).symm.trans h)
    simp only [exec, execDrw, State.loadBytes_eq_some_iff.mpr ⟨hb, rfl⟩]; rfl
  | ldB x =>
    have hb := of_ite_none_some_eq_none ((ownFault_ldB x s).symm.trans h)
    simp only [exec, execLdB, State.storeBytes_eq_some_iff.mpr ⟨hb, rfl⟩]; rfl
  | ldMemVx x =>
    have hb := of_ite_none_some_eq_none ((ownFault_ldMemVx x s).symm.trans h)
    simp only [exec, execLdMemVx, State.storeBytes_eq_some_iff.mpr ⟨hb, rfl⟩]; rfl
  | ldVxMem x =>
    have hb := of_ite_none_some_eq_none ((ownFault_ldVxMem x s).symm.trans h)
    simp only [exec, execLdVxMem, State.loadBytes_eq_some_iff.mpr ⟨hb, rfl⟩]; rfl
  | skp x =>
    have hk : (s.reg x).toNat ≤ 0xF := by simpa [ownFault] using h
    simp only [exec, execSkp, State.keyCode_eq_some_iff.mpr ⟨hk, rfl⟩]; rfl
  | sknp x =>
    have hk : (s.reg x).toNat ≤ 0xF := by simpa [ownFault] using h
    simp only [exec, execSknp, State.keyCode_eq_some_iff.mpr ⟨hk, rfl⟩]; rfl
  | _ => rfl

/-- An instruction whose fault condition of R300 holds raises that fault and does nothing else (R124, R301). -/
theorem exec_of_ownFault_eq_some {i : Instr} {s : State} {code : FaultCode} (h : ownFault i s = some code) :
    exec i s = .next (s.raise code (encode i)) := by
  cases i with
  | ret =>
    obtain ⟨hsp, rfl⟩ : s.sp.val = 0 ∧ .stackUnderflow = code := by simpa [ownFault] using h
    simp only [exec, execRet, State.pop_eq_none_iff.mpr hsp]
  | call nnn =>
    obtain ⟨hsp, rfl⟩ : s.sp.val = 16 ∧ .stackOverflow = code := by simpa [ownFault] using h
    simp only [exec, execCall, State.push_eq_none_iff.mpr hsp]
  | drw x y n =>
    obtain ⟨hb, ⟨⟩⟩ := Option.ite_none_left_eq_some.mp ((ownFault_drw x y n s).symm.trans h)
    simp only [exec, execDrw, State.loadBytes_eq_none_iff.mpr hb]
  | ldB x =>
    obtain ⟨hb, ⟨⟩⟩ := Option.ite_none_left_eq_some.mp ((ownFault_ldB x s).symm.trans h)
    simp only [exec, execLdB, State.storeBytes_eq_none_iff.mpr hb]
  | ldMemVx x =>
    obtain ⟨hb, ⟨⟩⟩ := Option.ite_none_left_eq_some.mp ((ownFault_ldMemVx x s).symm.trans h)
    simp only [exec, execLdMemVx, State.storeBytes_eq_none_iff.mpr hb]
  | ldVxMem x =>
    obtain ⟨hb, ⟨⟩⟩ := Option.ite_none_left_eq_some.mp ((ownFault_ldVxMem x s).symm.trans h)
    simp only [exec, execLdVxMem, State.loadBytes_eq_none_iff.mpr hb]
  | skp x =>
    obtain ⟨hk, rfl⟩ : 0xF < (s.reg x).toNat ∧ .keyIndex = code := by simpa [ownFault] using h
    simp only [exec, execSkp, State.keyCode_eq_none_iff.mpr hk]
  | sknp x =>
    obtain ⟨hk, rfl⟩ : 0xF < (s.reg x).toNat ∧ .keyIndex = code := by simpa [ownFault] using h
    simp only [exec, execSknp, State.keyCode_eq_none_iff.mpr hk]
  | _ => cases h

/-- All an instruction can do: have its effect, or raise its fault. -/
theorem exec_cases (i : Instr) (s : State) :
    (ownFault i s = none ∧ exec i s = .next (effect i s)) ∨
      ∃ code, ownFault i s = some code ∧ exec i s = .next (s.raise code (encode i)) := by
  cases h : ownFault i s with
  | none => exact .inl ⟨rfl, exec_of_ownFault_eq_none h⟩
  | some code => exact .inr ⟨code, rfl, exec_of_ownFault_eq_some h⟩

end Sys2Proof.Machine
end

section
/-! PROOFS. Which fields of the state an instruction that raises no fault writes (10_state.md R24 to R38, 20_memory.md
R64), and that no instruction's effect but its own reads the sound clock or the inputs. -/

namespace Sys2Proof.Machine

/-! Fields no instruction writes. -/

@[simp] theorem effect_cfg (i : Instr) (s : State) : (effect i s).cfg = s.cfg := by cases i <;> rfl
@[simp] theorem effect_cpuCnt (i : Instr) (s : State) : (effect i s).cpuCnt = s.cpuCnt := by cases i <;> rfl
@[simp] theorem effect_refreshCnt (i : Instr) (s : State) : (effect i s).refreshCnt = s.refreshCnt := by cases i <;> rfl
@[simp] theorem effect_presentReq (i : Instr) (s : State) : (effect i s).presentReq = s.presentReq := by cases i <;> rfl
@[simp] theorem effect_runState (i : Instr) (s : State) : (effect i s).runState = s.runState := by cases i <;> rfl
@[simp] theorem effect_faultCode (i : Instr) (s : State) : (effect i s).faultCode = s.faultCode := by cases i <;> rfl
@[simp] theorem effect_faultPc (i : Instr) (s : State) : (effect i s).faultPc = s.faultPc := by cases i <;> rfl
@[simp] theorem effect_faultWord (i : Instr) (s : State) : (effect i s).faultWord = s.faultWord := by cases i <;> rfl
@[simp] theorem effect_inputs_quit (i : Instr) (s : State) : (effect i s).inputs.quit = s.inputs.quit := by
  cases i <;> rfl

/-! Fields with writers. -/

/-- Memory is written by LD B and LD [I] alone (R64). -/
theorem effect_mem {i : Instr} (h : ∀ x, i ≠ .ldB x ∧ i ≠ .ldMemVx x) (s : State) : (effect i s).mem = s.mem := by
  cases i with
  | ldB x => exact absurd rfl (h x).1
  | ldMemVx x => exact absurd rfl (h x).2
  | _ => rfl

/-- The stack is written by CALL alone (R26, R140). -/
theorem effect_stack {i : Instr} (h : ∀ nnn, i ≠ .call nnn) (s : State) : (effect i s).stack = s.stack := by
  cases i with
  | call nnn => exact absurd rfl (h nnn)
  | _ => rfl

/-- `SP` is written by CALL and RET alone (R26). -/
theorem effect_sp {i : Instr} (hret : i ≠ .ret) (hcall : ∀ nnn, i ≠ .call nnn) (s : State) :
    (effect i s).sp = s.sp := by
  cases i with
  | ret => exact absurd rfl hret
  | call nnn => exact absurd rfl (hcall nnn)
  | _ => rfl

/-- The framebuffer is written by CLS and DRW alone (R30). -/
theorem effect_fb {i : Instr} (hcls : i ≠ .cls) (hdrw : ∀ x y n, i ≠ .drw x y n) (s : State) :
    (effect i s).fb = s.fb := by
  cases i with
  | cls => exact absurd rfl hcls
  | drw x y n => exact absurd rfl (hdrw x y n)
  | _ => rfl

/-- `key_prev` is written by SKP, SKNP and LD Vx, K alone (R31). -/
theorem effect_keyPrev {i : Instr} (h : ∀ x, i ≠ .skp x ∧ i ≠ .sknp x ∧ i ≠ .ldVxK x) (s : State) :
    (effect i s).keyPrev = s.keyPrev := by
  cases i with
  | skp x => exact absurd rfl (h x).1
  | sknp x => exact absurd rfl (h x).2.1
  | ldVxK x => exact absurd rfl (h x).2.2
  | _ => rfl

/-- `I` is written by its five writers alone (R24). -/
theorem effect_i {i : Instr}
    (h : ∀ nnn x, i ≠ .ldI nnn ∧ i ≠ .addI x ∧ i ≠ .ldF x ∧ i ≠ .ldMemVx x ∧ i ≠ .ldVxMem x) (s : State) :
    (effect i s).i = s.i := by
  cases i with
  | ldI nnn => exact absurd rfl (h nnn 0).1
  | addI x => exact absurd rfl (h 0 x).2.1
  | ldF x => exact absurd rfl (h 0 x).2.2.1
  | ldMemVx x => exact absurd rfl (h 0 x).2.2.2.1
  | ldVxMem x => exact absurd rfl (h 0 x).2.2.2.2
  | _ => rfl

/-- The delay clock is written by LD DT alone (R27). -/
theorem effect_delay {i : Instr} (h : ∀ x, i ≠ .ldDtVx x) (s : State) :
    (effect i s).dt = s.dt ∧ (effect i s).dtPhase = s.dtPhase := by
  cases i with
  | ldDtVx x => exact absurd rfl (h x)
  | _ => exact ⟨rfl, rfl⟩

/-- The sound clock is written by LD ST alone (R28). -/
theorem effect_sound {i : Instr} (h : ∀ x, i ≠ .ldStVx x) (s : State) :
    (effect i s).st = s.st ∧ (effect i s).stPhase = s.stPhase := by
  cases i with
  | ldStVx x => exact absurd rfl (h x)
  | _ => exact ⟨rfl, rfl⟩

/-- The inputs are sampled by SKP, SKNP, LD Vx, K and RND alone (R182, R230). -/
theorem effect_inputs {i : Instr} (h : ∀ x kk, i ≠ .skp x ∧ i ≠ .sknp x ∧ i ≠ .ldVxK x ∧ i ≠ .rnd x kk) (s : State) :
    (effect i s).inputs = s.inputs := by
  cases i with
  | skp x => exact absurd rfl (h x 0).1
  | sknp x => exact absurd rfl (h x 0).2.1
  | ldVxK x => exact absurd rfl (h x 0).2.2.1
  | rnd x kk => exact absurd rfl (h x kk).2.2.2
  | _ => rfl

/-! `VF`. -/

/-- The instruction is none of the ten flag writers of R37, and its destination `Vx`, the last one for LD Vx, [I], is not
`VF`: it leaves `VF` (`effect_flag`). -/
def sparesFlag : Instr → Prop
  | .orR _ _ | .andR _ _ | .xorR _ _ | .addR _ _ | .subR _ _ | .subnR _ _ | .shrR _ _ | .shlR _ _ | .drw _ _ _
  | .addI _ => False
  | .ldK x _ | .ldR x _ | .addK x _ | .rnd x _ | .ldVxDt x | .ldVxK x | .ldVxMem x => x ≠ flagReg
  | _ => True

/-- Writing a found key leaves every register but `Vx` (R234). -/
theorem State.reg_storeKey_of_ne (s : State) {x y : Reg} (k : Option Nat) (h : y ≠ x) :
    (s.storeKey x k).reg y = s.reg y := by
  cases k with
  | none => rfl
  | some k => exact s.reg_setReg_of_ne _ h

/-- A load of V0 to Vx leaves the registers above `Vx` (R265). -/
theorem getElem_setRegsFrom_zero_of_lt {v : Vector Byte 16} {bytes : List Byte} {x y : Reg}
    (hlen : bytes.length = x.val + 1) (h : x < y) : (setRegsFrom v 0 bytes)[y] = v[y] := by
  have hy : ¬ (0 ≤ y.val ∧ y.val - 0 < bytes.length) := by have : x.val < y.val := h; omega
  exact (getElem_setRegsFrom bytes v 0 y y.isLt).trans (dif_neg hy)

/-- VF is written, other than as a named destination, by the ten flag writers of R37 alone. -/
theorem effect_flag {i : Instr} (h : sparesFlag i) (s : State) : (effect i s).reg flagReg = s.reg flagReg := by
  cases i with
  | ldK x kk => exact s.reg_setReg_of_ne _ (Ne.symm h)
  | ldR x y => exact s.reg_setReg_of_ne _ (Ne.symm h)
  | addK x kk => exact s.reg_setReg_of_ne _ (Ne.symm h)
  | rnd x kk => exact s.randDrawn.reg_setReg_of_ne _ (Ne.symm h)
  | ldVxDt x => exact s.reg_setReg_of_ne _ (Ne.symm h)
  | ldVxK x => exact s.keyRefresh.reg_storeKey_of_ne _ (Ne.symm h)
  | ldVxMem x =>
    have hx : x < flagReg := Fin.lt_last_iff_ne_last.mpr h
    exact getElem_setRegsFrom_zero_of_lt (s.mem.length_readBytes _ _) hx
  | orR | andR | xorR | addR | subR | subnR | shrR | shlR | drw | addI => exact h.elim
  | _ => rfl

/-! Two runs. -/

/-- The state with another sound clock. -/
def State.withSound (s : State) (b : Byte) (phase : Nat) : State := { s with st := b, stPhase := phase }

/-- The state with another environment. -/
def State.withInputs (s : State) (e : Inputs) : State := { s with inputs := e }

/-- No fault condition of R300 reads the sound clock. -/
theorem ownFault_withSound (i : Instr) (s : State) (b : Byte) (phase : Nat) :
    ownFault i (s.withSound b phase) = ownFault i s := by cases i <;> rfl

/-- No fault condition of R300 reads the inputs. -/
theorem ownFault_withInputs (i : Instr) (s : State) (e : Inputs) : ownFault i (s.withInputs e) = ownFault i s := by
  cases i <;> rfl

/-- No effect but that of LD ST reads or writes the sound clock (R28). -/
theorem effect_withSound {i : Instr} (h : ∀ x, i ≠ .ldStVx x) (s : State) (b : Byte) (phase : Nat) :
    effect i (s.withSound b phase) = (effect i s).withSound b phase := by
  cases i with
  | ldStVx x => exact absurd rfl (h x)
  | _ => rfl

/-- No effect but those of SKP, SKNP, LD Vx, K and RND reads or writes the inputs (R182, R230). -/
theorem effect_withInputs {i : Instr} (h : ∀ x kk, i ≠ .skp x ∧ i ≠ .sknp x ∧ i ≠ .ldVxK x ∧ i ≠ .rnd x kk) (s : State)
    (e : Inputs) : effect i (s.withInputs e) = (effect i s).withInputs e := by
  cases i with
  | skp x => exact absurd rfl (h x 0).1
  | sknp x => exact absurd rfl (h x 0).2.1
  | ldVxK x => exact absurd rfl (h x 0).2.2.1
  | rnd x kk => exact absurd rfl (h x kk).2.2.2
  | _ => rfl

/-- A change of the state that an instruction's fault condition and effect do not see, and that fault entry keeps, is
invisible to the instruction: it runs alike and the change is still there. -/
theorem exec_of_commutes {i : Instr} {s t : State} (f : State → State) (hfault : ownFault i (f s) = ownFault i s)
    (heffect : effect i (f s) = f (effect i s)) (hraise : ∀ code w, (f s).raise code w = f (s.raise code w))
    (h : exec i s = .next t) : exec i (f s) = .next (f t) := by
  obtain ⟨hf, he⟩ | ⟨code, hf, he⟩ := exec_cases i s
  · cases he.symm.trans h
    rw [exec_of_ownFault_eq_none (hfault.trans hf), heffect]
  · cases he.symm.trans h
    rw [exec_of_ownFault_eq_some (hfault.trans hf), hraise]

end Sys2Proof.Machine
end

section
/-! PROOFS. The obligations about who writes what and who reads what (10_state.md R24 to R42). -/

namespace Sys2Proof.Machine

/-- Settles O30: a fault writes none of these fields, and each effect writes them under its own instructions alone. -/
theorem memoryStackDisplayAndKeysHaveTheirWriters : Obligations.MemoryStackDisplayAndKeysHaveTheirWriters := by
  intro i s
  obtain ⟨-, he⟩ | ⟨code, -, he⟩ := exec_cases i s
  · exact ⟨_, he, fun h => effect_mem h s, fun hr hc => ⟨effect_stack hc s, effect_sp hr hc s⟩,
      fun hc hd => effect_fb hc hd s, fun h => effect_keyPrev h s⟩
  · exact ⟨_, he, by simp⟩

/-- Settles O31: a fault writes none of these fields, and each effect writes them under its own instructions alone. -/
theorem flagIndexAndTimersHaveTheirWriters : Obligations.FlagIndexAndTimersHaveTheirWriters := by
  intro i s
  obtain ⟨-, he⟩ | ⟨code, -, he⟩ := exec_cases i s
  · refine ⟨_, he, fun h => effect_flag ?_ s, fun h => effect_i h s, fun h => effect_delay h s, fun h => effect_sound h s⟩
    cases i <;> exact h
  · exact ⟨_, he, by simp⟩

/-- Settles O32: no effect writes any of these fields, and a fault writes the fault record and `run_state` alone. -/
theorem noInstructionWritesTheClocking : Obligations.NoInstructionWritesTheClocking := by
  intro i s
  obtain ⟨-, he⟩ | ⟨code, hf, he⟩ := exec_cases i s
  · exact ⟨_, he, by simp⟩
  · exact ⟨_, he, by simp [hf]⟩

/-- Settles O34: neither a fault condition nor an effect other than that of LD ST sees the sound clock. -/
theorem soundClockIsInvisibleToPrograms : Obligations.SoundClockIsInvisibleToPrograms := by
  intro i s t b p hi h
  exact exec_of_commutes (fun u => u.withSound b p) (ownFault_withSound i s b p) (effect_withSound hi s b p)
    (fun _ _ => rfl) h

/-- Settles O35: neither a fault condition nor an effect other than those of the four sampling instructions sees the
inputs. -/
theorem inputsReachOnlyTheirInstructions : Obligations.InputsReachOnlyTheirInstructions := by
  intro i s t e hi h
  refine ⟨?_, exec_of_commutes (fun u => u.withInputs e) (ownFault_withInputs i s e) (effect_withInputs hi s e)
    (fun _ _ => rfl) h⟩
  obtain ⟨-, he⟩ | ⟨code, -, he⟩ := exec_cases i s
  · cases he.symm.trans h; exact effect_inputs hi s
  · cases he.symm.trans h; rfl

end Sys2Proof.Machine
end

section
/-! PROOFS. What a master cycle and an instruction cycle can do, said once (40_cycle.md R120, 60_exceptions.md R311), and
that neither changes the configuration. -/

namespace Sys2Proof.Machine

/-- All a master cycle can do: it is frozen, it only counts, or it counts and runs an instruction cycle (R309, R311). -/
theorem step_next_cases {s t : State} (h : step s = .next t) :
    (s.runState ≠ .running ∧ t = s.endPulse) ∨
    (s.runState = .running ∧ s.cpuCnt + 1 ≠ s.cfg.cpuDiv ∧ t = s.beginCycle) ∨
    (s.runState = .running ∧ s.cpuCnt + 1 = s.cfg.cpuDiv ∧
      ∃ u, instructionCycle s.beginCycle = .next u ∧ t = u.sampleQuit) := by
  by_cases hr : s.runState = .running
  · by_cases ht : s.cpuCnt + 1 = s.cfg.cpuDiv
    · rw [step_of_tick hr ht, cpuTick] at h
      cases hu : instructionCycle s.beginCycle with
      | next u => rw [hu] at h; cases h; exact .inr (.inr ⟨hr, ht, u, rfl, rfl⟩)
      | fault r => rw [hu] at h; cases h
      | refused r => rw [hu] at h; cases h
    · rw [step_of_idle hr ht] at h; cases h; exact .inr (.inl ⟨hr, ht, rfl⟩)
  · rw [step_of_frozen hr] at h; cases h; exact .inl ⟨hr, rfl⟩

/-- All the decoding and execution of a word can do: reject it, or run the instruction and then `PresentLogic` (R120). -/
theorem executeWord_next_cases {w : Word} {s t : State} (h : executeWord w s = .next t) :
    t = s.raise .unknownOpcode w ∨
    ∃ i u, decode w = .instr i ∧ exec i s = .next u ∧ t = u.afterExecute i := by
  unfold executeWord at h
  cases hd : decode w with
  | unknownOpcode w' => rw [hd] at h; cases h; exact .inl rfl
  | instr i =>
    rw [hd] at h
    cases hu : exec i s with
    | next u => simp only [hu] at h; cases h; exact .inr ⟨i, u, rfl, hu, rfl⟩
    | fault r => simp only [hu] at h; cases h
    | refused r => simp only [hu] at h; cases h

/-- All an instruction cycle can do: a fault of the fetch, or the execution of the fetched word (R120, R121). -/
theorem instructionCycle_next_cases {s t : State} (h : instructionCycle s = .next t) :
    (s.pc.toNat % 2 = 1 ∧ t = s.haltFetch .pcMisaligned) ∨
    (s.pc.toNat % 2 = 0 ∧ 0xFFE < s.pc.toNat ∧ t = s.haltFetch .pcOob) ∨
    (s.pc.toNat % 2 = 0 ∧ s.pc.toNat ≤ 0xFFE ∧ executeWord s.fetchWord s.advance = .next t) := by
  unfold instructionCycle at h
  split at h
  · next hodd => cases h; exact .inl ⟨hodd, rfl⟩
  · next hodd =>
    have heven : s.pc.toNat % 2 = 0 := by omega
    split at h
    · next hoob => cases h; exact .inr (.inl ⟨heven, hoob, rfl⟩)
    · next hoob => exact .inr (.inr ⟨heven, by omega, h⟩)

/-- After an instruction's execution comes `PresentLogic`, or nothing when a fault was raised (R120, R124). -/
theorem State.afterExecute_cases (i : Instr) (s : State) :
    (s.runState = .running ∧ s.afterExecute i = s.presentLogic i) ∨
      (s.runState ≠ .running ∧ s.afterExecute i = s) := by
  cases hr : s.runState <;> simp [State.afterExecute, hr]

/-! The configuration. -/

@[simp] theorem State.afterExecute_cfg (i : Instr) (s : State) : (s.afterExecute i).cfg = s.cfg := by
  obtain ⟨-, e⟩ | ⟨-, e⟩ := s.afterExecute_cases i
  · rw [e, State.presentLogic_frame]
  · rw [e]

@[simp] theorem State.sampleQuit_cfg (s : State) : s.sampleQuit.cfg = s.cfg := by rw [State.sampleQuit_frame]

/-- No instruction changes the configuration (R36). -/
theorem exec_cfg {i : Instr} {s t : State} (h : exec i s = .next t) : t.cfg = s.cfg := by
  obtain ⟨-, he⟩ | ⟨code, -, he⟩ := exec_cases i s
  · cases he.symm.trans h; simp
  · cases he.symm.trans h; simp

/-- No instruction cycle changes the configuration (R36). -/
theorem instructionCycle_cfg {s t : State} (h : instructionCycle s = .next t) : t.cfg = s.cfg := by
  obtain ⟨-, rfl⟩ | ⟨-, -, rfl⟩ | ⟨-, -, hw⟩ := instructionCycle_next_cases h
  · rfl
  · rfl
  · obtain rfl | ⟨i, u, -, hu, rfl⟩ := executeWord_next_cases hw
    · rfl
    · rw [State.afterExecute_cfg, exec_cfg hu, State.advance_cfg]

/-- Settles O47: no case of a master cycle writes the configuration. -/
theorem configurationNeverChanges : Obligations.ConfigurationNeverChanges := by
  intro s t h
  obtain ⟨-, rfl⟩ | ⟨-, -, rfl⟩ | ⟨-, -, u, hu, rfl⟩ := step_next_cases h
  · rfl
  · rfl
  · rw [State.sampleQuit_cfg, instructionCycle_cfg hu, State.beginCycle_cfg]

end Sys2Proof.Machine
end

section
/-! PROOFS. The invariant `State.Inv`: each stage of a master cycle keeps it, hence every step does. -/

namespace Sys2Proof.Machine

/-! What an instruction's effect keeps of the invariant. -/

/-- An effect keeps memory canonical and inside its 4096 bytes when the instruction raises no fault (R60, R65). -/
theorem effect_mem_wf {i : Instr} {s : State} (hm : s.mem.wf) (hf : ownFault i s = none) : (effect i s).mem.wf := by
  cases i with
  | ldB x => exact Memory.wf_writeBytes hm (of_ite_none_some_eq_none ((ownFault_ldB x s).symm.trans hf))
  | ldMemVx x => exact Memory.wf_writeBytes hm (of_ite_none_some_eq_none ((ownFault_ldMemVx x s).symm.trans hf))
  | _ => exact hm

/-- Every writer of `I` masks it to 12 bits (R24). -/
theorem State.setI_i_lt (s : State) (n : Nat) : (s.setI n).i.toNat < 4096 := by
  rw [State.setI_i, BitVec.toNat_ofNat]; omega

/-- An effect keeps `I` within 12 bits (R24). -/
theorem effect_i_lt (i : Instr) {s : State} (hi : s.i.toNat < 4096) : (effect i s).i.toNat < 4096 := by
  cases i with
  | ldI | addI | ldF | ldMemVx | ldVxMem => exact s.setI_i_lt _
  | _ => exact hi

/-- A 12-bit target is below 0x1000 (R143, R144). -/
theorem toNat_zeroExtend_le (nnn : Addr12) : (nnn.zeroExtend 16 : Word).toNat ≤ 0x1002 := by
  have := nnn.isLt
  rw [BitVec.zeroExtend, BitVec.toNat_setWidth]; omega

/-- A skip advances `PC` by at most 2 (R127). -/
theorem State.skipIf_pc_le {s : State} (h : s.pc.toNat ≤ 0x1000) (b : Bool) : (s.skipIf b).pc.toNat ≤ 0x1002 := by
  cases b
  · show s.pc.toNat ≤ 0x1002; omega
  · show (s.pc + 2).toNat ≤ 0x1002; bv_omega

/-- A rewind takes `PC` back by at most 2 (R234). -/
theorem State.rewindIf_pc_le {s : State} (h : 2 ≤ s.pc.toNat) (h' : s.pc.toNat ≤ 0x1000) (b : Bool) :
    (s.rewindIf b).pc.toNat ≤ 0x1002 := by
  cases b
  · show s.pc.toNat ≤ 0x1002; omega
  · show (s.pc - 2).toNat ≤ 0x1002; bv_omega

/-- An effect from an advanced `PC` keeps `PC` at most 0x1002 (R127): a skip adds 2, a jump has 12 bits, and RET takes a
stack entry. -/
theorem effect_pc_le (i : Instr) {s : State} (hs : s.Inv) (h : 2 ≤ s.pc.toNat) (h' : s.pc.toNat ≤ 0x1000) :
    (effect i s).pc.toNat ≤ 0x1002 := by
  cases i with
  | ret =>
    have hentry := (hs.stack_even ⟨s.sp.val - 1, by omega⟩).2
    exact Nat.le_trans hentry (by omega)
  | jp nnn | call nnn => exact toNat_zeroExtend_le nnn
  | jpV0 nnn =>
    show (BitVec.ofNat 16 _).toNat ≤ 0x1002
    rw [BitVec.toNat_ofNat]; omega
  | seK | sneK | seR | sneR | skp | sknp => exact State.skipIf_pc_le (by exact h') _
  | ldVxK => exact State.rewindIf_pc_le (by exact h) (by exact h') _
  | _ => exact hs.pc_bound

/-- An effect from an advanced `PC` keeps stack entries even and at most 0x1000, because a CALL pushes that `PC` (R142). -/
theorem effect_stack_even (i : Instr) {s : State} (hs : s.Inv) (heven : s.pc.toNat % 2 = 0) (h : s.pc.toNat ≤ 0x1000)
    (k : Fin 16) : (effect i s).stack[k].toNat % 2 = 0 ∧ (effect i s).stack[k].toNat ≤ 0x1000 := by
  cases i with
  | call nnn =>
    have hk : (effect (.call nnn) s).stack[k] = if s.sp.val = k.val then s.pc else s.stack[k] :=
      Vector.getElem_setIfInBounds k.isLt
    rw [hk]
    split
    · exact ⟨heven, h⟩
    · exact hs.stack_even k
  | _ => exact hs.stack_even k

/-- An effect keeps the phase of the delay clock in its range: a load sets it to 0 (R27, R235). -/
theorem effect_delay_range (i : Instr) {s : State} (hs : s.Inv) :
    (effect i s).dtPhase < s.cfg.timerDiv ∧ ((effect i s).dt = 0 → (effect i s).dtPhase = 0) := by
  cases i with
  | ldDtVx x => exact ⟨Nat.zero_lt_of_lt hs.dt_phase, fun _ => rfl⟩
  | _ => exact ⟨hs.dt_phase, hs.dt_idle⟩

/-- An effect keeps the phase of the sound clock in its range: a load sets it to 0 (R28, R236). -/
theorem effect_sound_range (i : Instr) {s : State} (hs : s.Inv) :
    (effect i s).stPhase < s.cfg.timerDiv ∧ ((effect i s).st = 0 → (effect i s).stPhase = 0) := by
  cases i with
  | ldStVx x => exact ⟨Nat.zero_lt_of_lt hs.st_phase, fun _ => rfl⟩
  | _ => exact ⟨hs.st_phase, hs.st_idle⟩

/-- The condition an instruction executes under: `PC` is `a + 2` for an even address `a` at most 0xFFE (R121, R129). -/
def State.Advanced (s : State) : Prop := s.pc.toNat % 2 = 0 ∧ 2 ≤ s.pc.toNat ∧ s.pc.toNat ≤ 0x1000

/-- An instruction that raises no fault keeps the invariant. -/
theorem State.Inv.effect {i : Instr} {s : State} (hs : s.Inv) (hr : s.runState = .running) (ha : s.Advanced)
    (hf : ownFault i s = none) : (effect i s).Inv := by
  obtain ⟨heven, h2, hle⟩ := ha
  exact
    { cfg_legal := by simpa using hs.cfg_legal
      mem_wf := effect_mem_wf hs.mem_wf hf
      i_masked := effect_i_lt i hs.i_masked
      pc_bound := effect_pc_le i hs h2 hle
      stack_even := effect_stack_even i hs heven hle
      dt_phase := by simpa using (effect_delay_range i hs).1
      dt_idle := (effect_delay_range i hs).2
      st_phase := by simpa using (effect_sound_range i hs).1
      st_idle := (effect_sound_range i hs).2
      cpu_cnt := by simpa using hs.cpu_cnt
      refresh_cnt := by simpa using hs.refresh_cnt
      halted_iff := by simpa using hs.halted_iff
      no_fault_pc := by simpa using hs.no_fault_pc
      halted_pc := by simp [hr]
      fault_word := by simpa using hs.fault_word }

/-! The other stages of a master cycle. -/

/-- Fault entry keeps the invariant when it latches a code, an address `PC` can hold, and a word exactly for the faults
that are not the fetch's (R300, R301). -/
theorem State.Inv.halt {s : State} (hs : s.Inv) {code : FaultCode} {a : Word} {word : Option Word}
    (hcode : code ≠ .none) (ha : a.toNat ≤ 0x1002)
    (hword : word.isSome ↔ code ≠ .none ∧ code ≠ .pcMisaligned ∧ code ≠ .pcOob) : (s.halt code a word).Inv :=
  { hs with
    pc_bound := ha
    halted_iff := by simp [hcode]
    no_fault_pc := fun h => absurd h hcode
    halted_pc := fun _ => rfl
    fault_word := hword }

/-- A fault of decode or of an instruction keeps the invariant: its code is not the fetch's, and its address is `PC − 2`. -/
theorem State.Inv.raise {s : State} (hs : s.Inv) (ha : s.Advanced) {code : FaultCode}
    (hcode : code ≠ .none ∧ code ≠ .pcMisaligned ∧ code ≠ .pcOob) (w : Word) : (s.raise code w).Inv := by
  obtain ⟨-, h2, hle⟩ := ha
  exact hs.halt hcode.1 (by bv_omega) ⟨fun _ => hcode, fun _ => rfl⟩

/-- No instruction raises a fault of the fetch (R300). -/
theorem ownFault_code {i : Instr} {s : State} {code : FaultCode} (h : ownFault i s = some code) :
    code ≠ .none ∧ code ≠ .pcMisaligned ∧ code ≠ .pcOob := by
  cases i with
  | ret | call | drw | ldB | ldMemVx | ldVxMem | skp | sknp =>
    obtain ⟨-, ⟨⟩⟩ := Option.ite_none_right_eq_some.mp h; decide
  | _ => cases h

/-- An instruction keeps the invariant, whether it faults or not. -/
theorem State.Inv.exec {i : Instr} {s t : State} (hs : s.Inv) (hr : s.runState = .running) (ha : s.Advanced)
    (h : exec i s = .next t) : t.Inv := by
  obtain ⟨hf, he⟩ | ⟨code, hf, he⟩ := exec_cases i s
  · cases he.symm.trans h; exact hs.effect hr ha hf
  · cases he.symm.trans h; exact hs.raise ha (ownFault_code hf) _

/-- `PresentLogic` keeps `refresh_cnt` below `REFRESH_K` (R33, R204). -/
theorem State.presentLogic_refreshCnt_lt (i : Instr) {s : State} (h : s.refreshCnt < s.cfg.refreshK) :
    (s.presentLogic i).refreshCnt < s.cfg.refreshK := by
  unfold State.presentLogic
  split
  · exact h
  · split
    · exact Nat.zero_lt_of_lt h
    · show s.refreshCnt + 1 < s.cfg.refreshK; omega

/-- What follows an instruction's execution keeps the invariant. -/
theorem State.Inv.afterExecute {s : State} (hs : s.Inv) (i : Instr) : (s.afterExecute i).Inv := by
  obtain ⟨-, e⟩ | ⟨-, e⟩ := s.afterExecute_cases i
  · rw [e, State.presentLogic_frame]
    exact { hs with refresh_cnt := State.presentLogic_refreshCnt_lt i hs.refresh_cnt }
  · rwa [e]

/-- Sampling `quit_in` keeps the invariant: it stops a RUNNING core, which has no fault latched (R316). -/
theorem State.Inv.sampleQuit {s : State} (hs : s.Inv) : s.sampleQuit.Inv := by
  have hiff : s.sampleQuit.runState = .halted ↔ s.runState = .halted := by
    cases hr : s.runState with
    | running => simp [State.sampleQuit_ne_halted hr]
    | halted => simp [State.sampleQuit_of_halted hr, hr]
    | stopped => simp [State.sampleQuit, hr]
  rw [State.sampleQuit_frame]
  exact { hs with halted_iff := hiff.trans hs.halted_iff, halted_pc := fun h => hs.halted_pc (hiff.mp h) }

/-- The end of the present pulse keeps the invariant. -/
theorem State.Inv.endPulse {s : State} (hs : s.Inv) : s.endPulse.Inv := { hs with }

/-- The start of a master cycle keeps the invariant: both countdowns and the prescaler stay in their ranges (R27, R28,
R32). -/
theorem State.Inv.beginCycle {s : State} (hs : s.Inv) : s.beginCycle.Inv := by
  obtain ⟨hdt, hdt0⟩ := countdown_keeps_range (t := (s.dt, s.dtPhase)) hs.dt_phase hs.dt_idle
  obtain ⟨hst, hst0⟩ := countdown_keeps_range (t := (s.st, s.stPhase)) hs.st_phase hs.st_idle
  have hcpu : s.beginCycle.cpuCnt < s.cfg.cpuDiv := by
    have := hs.cpu_cnt
    simp only [State.beginCycle_cpuCnt, State.tickDue, beq_iff_eq]
    split <;> omega
  exact { hs with dt_phase := hdt, dt_idle := hdt0, st_phase := hst, st_idle := hst0, cpu_cnt := hcpu }

/-- The fetch's `PC <- a + 2` from an even address at most 0xFFE leaves an advanced `PC` (R120, R129). -/
theorem State.advance_advanced {s : State} (heven : s.pc.toNat % 2 = 0) (h : s.pc.toNat ≤ 0xFFE) : s.advance.Advanced := by
  have hpc : s.advance.pc.toNat = s.pc.toNat + 2 := by rw [State.advance_pc]; bv_omega
  unfold State.Advanced; omega

/-- The fetch's `PC <- a + 2` keeps the invariant of a RUNNING core (R120). -/
theorem State.Inv.advance {s : State} (hs : s.Inv) (hr : s.runState = .running) (h : s.pc.toNat ≤ 0xFFE) :
    s.advance.Inv :=
  { hs with
    pc_bound := by rw [State.advance_pc]; bv_omega
    halted_pc := by simp [hr] }

/-- The decoding and execution of a word keeps the invariant. -/
theorem State.Inv.executeWord {w : Word} {s t : State} (hs : s.Inv) (hr : s.runState = .running) (ha : s.Advanced)
    (h : executeWord w s = .next t) : t.Inv := by
  obtain rfl | ⟨i, u, -, hu, rfl⟩ := executeWord_next_cases h
  · exact hs.raise ha (by decide) w
  · exact (hs.exec hr ha hu).afterExecute i

/-- An instruction cycle of a RUNNING core keeps the invariant. -/
theorem State.Inv.instructionCycle {s t : State} (hs : s.Inv) (hr : s.runState = .running)
    (h : instructionCycle s = .next t) : t.Inv := by
  obtain ⟨-, rfl⟩ | ⟨-, -, rfl⟩ | ⟨heven, hle, hw⟩ := instructionCycle_next_cases h
  · exact hs.halt (by decide) hs.pc_bound (by decide)
  · exact hs.halt (by decide) hs.pc_bound (by decide)
  · exact (hs.advance hr hle).executeWord hr (State.advance_advanced heven hle) hw

/-- Settles O53: in each of its cases a master cycle is made of stages that keep the invariant. -/
theorem everyStepKeepsTheInvariant : Obligations.EveryStepKeepsTheInvariant := by
  intro s t hs h
  obtain ⟨-, rfl⟩ | ⟨-, -, rfl⟩ | ⟨hr, -, u, hu, rfl⟩ := step_next_cases h
  · exact hs.endPulse
  · exact hs.beginCycle
  · exact (hs.beginCycle.instructionCycle hr hu).sampleQuit

end Sys2Proof.Machine
end

section
/-! PROOFS. What initialization leaves, and that it establishes the invariant (10_state.md R40, 70_reset_and_hazards.md R350
to R352). -/

namespace Sys2Proof.Machine

/-- The checks of R351 in arithmetic. -/
theorem wellFormed_iff {cfg : Configuration} {len : Nat} :
    cfg.wellFormed len = true ↔
      cfg.loadOffset.toNat + len ≤ 4096 ∧ cfg.fontOffset.toNat + 80 ≤ 4096 ∧
      (len = 0 ∨ cfg.loadOffset.toNat + len ≤ cfg.fontOffset.toNat ∨ cfg.fontOffset.toNat + 80 ≤ cfg.loadOffset.toNat) ∧
      1 ≤ cfg.cpuDiv ∧ 1 ≤ cfg.timerDiv ∧ 1 ≤ cfg.refreshK := by
  simp [Configuration.wellFormed, Configuration.romFits, Configuration.fontFits, Configuration.romClearOfFont,
    Configuration.divisorsPositive, and_assoc]

/-- Zeroed memory is canonical. -/
theorem Memory.wf_nil : Memory.wf [] := ⟨.nil, nofun⟩

/-- The font's bytes lie inside memory (R351). -/
theorem font_inBounds {cfg : Configuration} (hfont : cfg.fontOffset.toNat + 80 ≤ 4096) :
    spanInBounds cfg.fontOffset.toNat cfg.fontData.toList.length := by
  rw [Vector.length_toList]; exact .inr hfont

section
variable {cfg : Configuration} {rom : List Byte} (hrom : cfg.loadOffset.toNat + rom.length ≤ 4096)
  (hfont : cfg.fontOffset.toNat + 80 ≤ 4096)
include hrom

/-- The ROM in zeroed memory is canonical (R350, R352). -/
theorem romImage_wf : Memory.wf (Memory.writeBytes [] cfg.loadOffset.toNat rom) :=
  Memory.wf_writeBytes Memory.wf_nil (.inr hrom)

include hfont

/-- Initial memory is canonical and inside its 4096 bytes (R60, R350). -/
theorem initial_mem_wf : (State.initial cfg rom).mem.wf :=
  Memory.wf_writeBytes (romImage_wf hrom) (font_inBounds hfont)

/-- Initial memory holds the font at FONT_OFFSET (R350). -/
theorem initial_memByte_font (k : Fin 80) :
    (State.initial cfg rom).memByte (cfg.fontOffset.toNat + k.val) = cfg.fontData[k] := by
  refine (Memory.read_writeBytes (romImage_wf hrom) (font_inBounds hfont) _).trans ?_
  rw [dif_pos (by simp)]
  simp

/-- Outside the font, initial memory is the ROM in zeroed memory (R350). -/
theorem initial_memByte_of_not_font {a : Nat}
    (h : a < cfg.fontOffset.toNat ∨ cfg.fontOffset.toNat + 80 ≤ a) :
    (State.initial cfg rom).memByte a = (Memory.writeBytes [] cfg.loadOffset.toNat rom).read a :=
  Memory.read_writeBytes_outside (romImage_wf hrom) (font_inBounds hfont) (by simpa using h)

/-- Initial memory holds the ROM at LOAD_OFFSET, because the font shares no address with it (R351, R352). -/
theorem initial_memByte_rom
    (hclear : rom.length = 0 ∨ cfg.loadOffset.toNat + rom.length ≤ cfg.fontOffset.toNat ∨
      cfg.fontOffset.toNat + 80 ≤ cfg.loadOffset.toNat) (k : Nat) (hk : k < rom.length) :
    (State.initial cfg rom).memByte (cfg.loadOffset.toNat + k) = rom[k] := by
  rw [initial_memByte_of_not_font hrom hfont (by omega), Memory.read_writeBytes Memory.wf_nil (.inr hrom),
    dif_pos (by omega)]
  simp

/-- Initial memory is 0 outside the ROM and the font (R67, R350). -/
theorem initial_memByte_elsewhere {a : Nat}
    (hr : ¬ (cfg.loadOffset.toNat ≤ a ∧ a < cfg.loadOffset.toNat + rom.length))
    (hf : ¬ (cfg.fontOffset.toNat ≤ a ∧ a < cfg.fontOffset.toNat + 80)) : (State.initial cfg rom).memByte a = 0 := by
  rw [initial_memByte_of_not_font hrom hfont (by omega),
    Memory.read_writeBytes_outside Memory.wf_nil (.inr hrom) (by omega)]
  rfl

end

/-- `PC` starts at LOAD_OFFSET (R40, R352). -/
theorem initial_pc (cfg : Configuration) (rom : List Byte) :
    (State.initial cfg rom).pc.toNat = cfg.loadOffset.toNat := by
  have := cfg.loadOffset.isLt
  show (BitVec.setWidth 16 cfg.loadOffset).toNat = _
  rw [BitVec.toNat_setWidth]; omega

/-- Settles O50: memory by the two writes of the image, every other field by its reset value. -/
theorem initializationLeavesTheResetValues : Obligations.InitializationLeavesTheResetValues := by
  intro cfg rom s h
  obtain ⟨hwf, ⟨⟩⟩ := Option.ite_none_right_eq_some.mp h
  obtain ⟨hrom, hfont, hclear, -⟩ := wellFormed_iff.mp hwf
  refine ⟨initial_memByte_rom hrom hfont hclear, initial_memByte_font hrom hfont,
    fun a => initial_memByte_elsewhere hrom hfont, fun c r => ?_, rfl, rfl, rfl, rfl, fun x => ?_, rfl,
    initial_pc cfg rom, rfl, fun k => ?_, rfl, rfl, rfl, rfl, rfl, rfl, rfl, rfl⟩
  · simp [State.fbRd, State.initial, Framebuffer.pixel, Framebuffer.blank]
  · simp [State.reg, State.initial]
  · simp [State.initial]

/-- Settles O51: the checks of R351 give the ranges of the counters and the bounds of memory. -/
theorem initializationEstablishesTheInvariant : Obligations.InitializationEstablishesTheInvariant := by
  intro cfg rom s h
  obtain ⟨hwf, ⟨⟩⟩ := Option.ite_none_right_eq_some.mp h
  obtain ⟨hrom, hfont, -, hcpu, htimer, hrefresh⟩ := wellFormed_iff.mp hwf
  exact
    { cfg_legal := by
        simp [State.initial, Configuration.divisorsPositive, Configuration.fontFits, hcpu, htimer, hrefresh, hfont]
      mem_wf := initial_mem_wf hrom hfont
      i_masked := Nat.zero_lt_succ _
      pc_bound := by have := cfg.loadOffset.isLt; rw [initial_pc]; omega
      stack_even := by simp [State.initial]
      dt_phase := htimer
      dt_idle := fun _ => rfl
      st_phase := htimer
      st_idle := fun _ => rfl
      cpu_cnt := hcpu
      refresh_cnt := hrefresh
      halted_iff := by simp [State.initial]
      no_fault_pc := fun _ => rfl
      halted_pc := by simp [State.initial]
      fault_word := by simp [State.initial] }

/-- Settles O52: the reset state is an initialization that succeeds. -/
theorem resetSatisfiesTheInvariant : Obligations.ResetSatisfiesTheInvariant :=
  initializationEstablishesTheInvariant Config.default [] State.reset rfl

end Sys2Proof.Machine
end

section
/-! PROOFS. What the fetch reads (20_memory.md R62): the two bytes of its word, a byte stored by the instruction before
(R72), and a word placed by the loader (log 3, 4). -/

namespace Sys2Proof.Machine

/-- The first byte of a word is its high half, the second its low half (R62, R90). -/
theorem toNat_wordOfBytes (hi lo : Byte) : (wordOfBytes hi lo).toNat = 256 * hi.toNat + lo.toNat := by
  rw [wordOfBytes, BitVec.toNat_append, ← Nat.shiftLeft_add_eq_or_of_lt lo.isLt, Nat.shiftLeft_eq, Nat.mul_comm]

/-- The high byte of the fetched word is the byte at `PC` (R62, R120). -/
theorem State.toNat_fetchWord_div (s : State) : s.fetchWord.toNat / 256 = (s.memByte s.pc.toNat).toNat := by
  rw [State.fetchWord, toNat_wordOfBytes]; omega

/-- The low byte of the fetched word is the byte at `PC + 1` (R62, R120). -/
theorem State.toNat_fetchWord_mod (s : State) : s.fetchWord.toNat % 256 = (s.memByte (s.pc.toNat + 1)).toNat := by
  rw [State.fetchWord, toNat_wordOfBytes]; omega

/-- The k-th of the bytes written from `a` on is read at `a + k`. -/
theorem Memory.read_writeBytes_add {m : Memory} (hm : m.wf) {a : Nat} {bytes : List Byte}
    (hb : spanInBounds a bytes.length) {k : Nat} (hk : k < bytes.length) :
    (m.writeBytes a bytes).read (a + k) = bytes[k] := by
  rw [Memory.read_writeBytes hm hb, dif_pos (by omega)]
  simp only [Nat.add_sub_cancel_left]

/-! The next fetch after a store. -/

/-- A byte in memory is the high byte of the word fetched at its address, and the low byte of the word fetched one address
below, wherever `PC` was before (R62). -/
theorem State.memByte_is_fetched {t : State} {a v : Nat} (h : (t.memByte a).toNat = v) (p : Word) :
    (p.toNat = a → ({ t with pc := p } : State).fetchWord.toNat / 256 = v) ∧
    (p.toNat + 1 = a → ({ t with pc := p } : State).fetchWord.toNat % 256 = v) := by
  subst h
  constructor
  · rintro rfl; exact State.toNat_fetchWord_div _
  · rintro rfl; exact State.toNat_fetchWord_mod _

/-- LD [I], Vx leaves `V[k]` at `I + k` (R264). -/
theorem memByte_effect_ldMemVx {s : State} {x k : Reg} (hm : s.mem.wf) (hf : ownFault (.ldMemVx x) s = none)
    (hk : k.val ≤ x.val) : (effect (.ldMemVx x) s).memByte (s.i.toNat + k.val) = s.reg k := by
  have hlen := s.length_regsUpTo x
  have hspan := of_ite_none_some_eq_none ((ownFault_ldMemVx x s).symm.trans hf)
  exact (Memory.read_writeBytes_add hm hspan (by omega)).trans (s.getElem_regsUpTo x k _)

/-- The digits of a byte, hundreds first (R263). -/
theorem toNat_getElem_bcdDigits (b : Byte) (k : Fin 3) :
    ((bcdDigits b)[k]).toNat = b.toNat / 10 ^ (2 - k.val) % 10 := by
  have := b.isLt
  match k with
  | 0 => show (BitVec.ofNat 8 _).toNat = b.toNat / 100 % 10; rw [BitVec.toNat_ofNat]; omega
  | 1 => show (BitVec.ofNat 8 _).toNat = b.toNat / 10 % 10; rw [BitVec.toNat_ofNat]; omega
  | 2 => show (BitVec.ofNat 8 _).toNat = b.toNat / 1 % 10; rw [BitVec.toNat_ofNat]; omega

/-- LD B, Vx leaves the k-th digit of Vx at `I + k` (R263). -/
theorem memByte_effect_ldB {s : State} {x : Reg} (hm : s.mem.wf) (hf : ownFault (.ldB x) s = none) (k : Fin 3) :
    ((effect (.ldB x) s).memByte (s.i.toNat + k.val)).toNat = (s.reg x).toNat / 10 ^ (2 - k.val) % 10 := by
  have hspan := of_ite_none_some_eq_none ((ownFault_ldB x s).symm.trans hf)
  exact (congrArg BitVec.toNat (Memory.read_writeBytes_add hm hspan k.isLt)).trans (toNat_getElem_bcdDigits _ k)

/-- Settles O29: neither store faults, and the byte it leaves in memory is the one the fetch reads. -/
theorem storeIsSeenByTheNextFetch : Obligations.StoreIsSeenByTheNextFetch := by
  constructor
  · intro s x hm hb
    have hf : ownFault (.ldMemVx x) s = none := if_neg (by omega)
    exact ⟨_, exec_of_ownFault_eq_none hf, fun k p hk =>
      State.memByte_is_fetched (congrArg BitVec.toNat (memByte_effect_ldMemVx hm hf hk)) p⟩
  · intro s x hm hb
    have hf : ownFault (.ldB x) s = none := if_neg (by omega)
    exact ⟨_, exec_of_ownFault_eq_none hf, fun k p => State.memByte_is_fetched (memByte_effect_ldB hm hf k) p⟩

/-! The loader. -/

section
variable {s : State} (hm : s.mem.wf) (hpc : s.pc.toNat ≤ 0xFFE)

include hpc in
/-- Both bytes of a word at a `PC` of at most 0xFFE lie inside memory (R61, R121). -/
theorem word_inBounds (w : Word) : spanInBounds s.pc.toNat [highByte w, lowByte w].length :=
  .inr (show s.pc.toNat + 2 ≤ memSize by unfold memSize; omega)

include hm hpc

/-- Where a fetch is in bounds, the loader writes the two bytes of the word and its filter takes out nothing (log 3). -/
theorem State.placeWord_mem (w : Word) :
    (s.placeWord w).mem = s.mem.writeBytes s.pc.toNat [highByte w, lowByte w] :=
  List.filter_eq_self.mpr fun c hc =>
    decide_eq_true ((Memory.wf_writeBytes hm (word_inBounds hpc w)).2 c hc).2

/-- The loader keeps the canonical form (log 14). -/
theorem State.placeWord_mem_wf (w : Word) : (s.placeWord w).mem.wf :=
  Memory.wf_filter (Memory.wf_writeBytes hm (word_inBounds hpc w)) _

/-- The fetch reads the placed word (R62; log 3). -/
theorem State.placeWord_fetchWord (w : Word) : (s.placeWord w).fetchWord = w := by
  have hhigh : (s.placeWord w).memByte s.pc.toNat = highByte w := by
    rw [State.memByte, State.placeWord_mem hm hpc]
    exact Memory.read_writeBytes_add hm (word_inBounds hpc w) Nat.two_pos
  have hlow : (s.placeWord w).memByte (s.pc.toNat + 1) = lowByte w := by
    rw [State.memByte, State.placeWord_mem hm hpc]
    exact Memory.read_writeBytes_add hm (word_inBounds hpc w) Nat.one_lt_two
  calc (s.placeWord w).fetchWord
      = wordOfBytes ((s.placeWord w).memByte s.pc.toNat) ((s.placeWord w).memByte (s.pc.toNat + 1)) := rfl
    _ = w := by rw [hhigh, hlow, wordOfBytes_bytes]

/-- The loader leaves every byte but the two of the word (log 3). -/
theorem State.placeWord_memByte_of_ne (w : Word) {a : Nat} (h : a ≠ s.pc.toNat) (h' : a ≠ s.pc.toNat + 1) :
    (s.placeWord w).memByte a = s.memByte a := by
  rw [State.memByte, State.placeWord_mem hm hpc]
  exact Memory.read_writeBytes_outside hm (word_inBounds hpc w) (by simp only [List.length_cons, List.length_nil]; omega)

end

/-- The loader puts the prescaler of a legal configuration at its last count (R309; log 4). -/
theorem State.placeWord_cpuCnt_succ {s : State} (h : s.cpuCnt < s.cfg.cpuDiv) (w : Word) :
    (s.placeWord w).cpuCnt + 1 = s.cfg.cpuDiv := by
  show s.cfg.cpuDiv - 1 + 1 = s.cfg.cpuDiv; omega

/-- Settles O54: `PC` and `run_state` are as before, the prescaler is at its last count, and the word is in memory. -/
theorem placedWordIsFetchedNext : Obligations.PlacedWordIsFetchedNext := by
  intro s w hs hr heven hpc hw
  have hword : (s.withFetchWord 16 w).fetchWord.toNat = w := by
    rw [State.withFetchWord, State.placeWord_fetchWord hs.mem_wf hpc, BitVec.toNat_ofNat, Nat.mod_eq_of_lt hw]
  exact ⟨⟨hr, State.placeWord_cpuCnt_succ hs.cpu_cnt _, heven, hpc⟩, hword,
    State.placeWord_mem_wf hs.mem_wf hpc _, fun a => State.placeWord_memByte_of_ne hs.mem_wf hpc _⟩

end Sys2Proof.Machine
end

section
/-! PROOFS. The decoder and the encoder (30_encoding.md R92 to R95): decoding the word of an instruction, the words each
part of the decoder answers an instruction for, and that no instruction has a second word. -/

namespace Sys2Proof

/-! The fields of a word. -/

theorem fieldOp_lt (w : Word) : fieldOp w < 16 := by
  have := w.isLt; rw [fieldOp_eq]; omega

theorem fieldN_eq_zero_iff (w : Word) : fieldN w = 0#4 ↔ w.toNat % 16 = 0 := by
  rw [← BitVec.toNat_inj, fieldN_toNat]; rfl

/-- A word of form `RR` is its top nibble, its registers and its subop (R92). -/
theorem formRRN_eq_of_fieldN {w : Word} {op n : BitVec 4} (hop : fieldOp w = op.toNat) (hn : (fieldN w).toNat = n.toNat) :
    formRRN op (fieldX w) (fieldY w) n = w := by
  rw [← BitVec.eq_of_toNat_eq hn, formRRN_fields w hop]

/-- A word of form `R` is its top nibble, its register and its subop (R92). -/
theorem formRK_eq_of_fieldKK {w : Word} {op : BitVec 4} {kk : Byte} (hop : fieldOp w = op.toNat)
    (hkk : (fieldKK w).toNat = kk.toNat) : formRK op (fieldX w) kk = w := by
  rw [← BitVec.eq_of_toNat_eq hkk, formRK_fields w hop]

/-! The word of an instruction decodes to it. -/

/-- Settles O1, a case per layout of R92: the fields of the word are the operands, and its fixed bits select the arm. -/
theorem decodeOfEncodeIsTheInstruction : Obligations.DecodeOfEncodeIsTheInstruction := by
  intro i
  cases i with
  | cls | ret => rfl
  | jp nnn | call nnn | jpV0 nnn | ldI nnn => simp [encode, decode]
  | seK x kk | sneK x kk | ldK x kk | addK x kk | rnd x kk => simp [encode, decode]
  | seR x y | sneR x y | drw x y n => simp [encode, decode]
  | ldR x y | orR x y | andR x y | xorR x y | addR x y | subR x y | subnR x y | shrR x y | shlR x y =>
    simp [encode, decode, decodeEight]
  | skp x | sknp x => simp [encode, decode, decodeE]
  | ldVxDt x | ldVxK x | ldDtVx x | ldStVx x | addI x | ldF x | ldB x | ldMemVx x | ldVxMem x =>
    simp [encode, decode, decodeF]

/-- Settles O4: each legal word computes to the encoding of its instruction, which decodes to it (O1). -/
theorem specExampleWordsDecode : Obligations.SpecExampleWordsDecode :=
  have h := decodeOfEncodeIsTheInstruction
  ⟨h .cls, h (.jp 0x200), h (.sneR 1 2), h (.ldK 0xA 0x02), h (.addR 0xA 0xB), h (.drw 1 2 5), h (.sknp 5), h (.ldVxK 2),
    h (.ldI 0x2F0), h (.ldB 0xA), rfl⟩

/-! A decoded word is the word of what it decodes to. -/

/-- What an answer of the decoder says of the word: an instruction with that word, or the rejection of that word (R94). -/
def Decoded.Spells (w : Word) : Decoded → Prop
  | .instr i => encode i = w
  | .unknownOpcode u => u = w

/-- Under top nibble 0 the two legal words are compared whole (R94). -/
theorem decodeZero_spells (w : Word) : (decodeZero w).Spells w := by
  unfold decodeZero
  split
  · next h => exact h.symm
  · split
    · next h => exact h.symm
    · rfl

/-- Under top nibble 8 the arm's low nibble is the subop of the instruction's layout (R92, R94). -/
theorem decodeEight_spells {w : Word} (hop : fieldOp w = 0x8) : (decodeEight w).Spells w := by
  unfold decodeEight
  split
  case h_10 => rfl
  all_goals next hn => exact formRRN_eq_of_fieldN hop hn

/-- Under top nibble E the arm's low byte is the subop of the instruction's layout (R92, R94). -/
theorem decodeE_spells {w : Word} (hop : fieldOp w = 0xE) : (decodeE w).Spells w := by
  unfold decodeE
  split
  case h_3 => rfl
  all_goals next hkk => exact formRK_eq_of_fieldKK hop hkk

/-- Under top nibble F the arm's low byte is the subop of the instruction's layout (R92, R94). -/
theorem decodeF_spells {w : Word} (hop : fieldOp w = 0xF) : (decodeF w).Spells w := by
  unfold decodeF
  split
  case h_10 => rfl
  all_goals next hkk => exact formRK_eq_of_fieldKK hop hkk

/-- A subop nibble that must be 0 (R94): the word is the instruction's when it is 0, and rejected otherwise. -/
theorem spells_ite_fieldN {w : Word} {op : BitVec 4} {i : Instr} (hop : fieldOp w = op.toNat)
    (hi : encode i = formRRN op (fieldX w) (fieldY w) 0) :
    (if fieldN w = 0 then Decoded.instr i else .unknownOpcode w).Spells w := by
  split
  · next hn => exact hi.trans (formRRN_eq_of_fieldN hop (congrArg BitVec.toNat hn))
  · rfl

/-- The decoder answers an instruction whose word is `w`, or rejects `w` (R94). -/
theorem decode_spells (w : Word) : (decode w).Spells w := by
  have hlt := fieldOp_lt w
  unfold decode
  generalize hop : fieldOp w = op at hlt ⊢
  split
  case h_1 => exact decodeZero_spells w
  case h_6 => exact spells_ite_fieldN (op := 0x5) hop rfl
  case h_9 => exact decodeEight_spells hop
  case h_10 => exact spells_ite_fieldN (op := 0x9) hop rfl
  case h_14 => exact formRRN_fields w hop
  case h_15 => exact decodeE_spells hop
  case h_16 => exact decodeF_spells (by grind)
  case h_2 | h_3 | h_11 | h_12 => exact formA_fields w hop
  case h_4 | h_5 | h_7 | h_8 | h_13 => exact formRK_fields w hop

/-- Settles O2: the layouts of the fields of a word are the word. -/
theorem encodeOfDecodeIsTheWord : Obligations.EncodeOfDecodeIsTheWord := by
  intro w i h
  have hw := decode_spells w
  rwa [h] at hw

/-- All the decoder can answer: the rejection of the word, or an instruction (R94). -/
theorem decode_cases (w : Word) : decode w = .unknownOpcode w ∨ ∃ i, decode w = .instr i := by
  have hw := decode_spells w
  cases hd : decode w with
  | instr i => exact .inr ⟨i, rfl⟩
  | unknownOpcode u => rw [hd] at hw; exact .inl (congrArg _ hw)

/-! The words each part of the decoder answers an instruction for (R94), the rest being listed by R95. -/

/-- A guarded arm answers an instruction when its guard holds or its other branch answers one. -/
theorem exists_ite_instr_iff {p : Prop} [Decidable p] {i : Instr} {d : Decoded} :
    (∃ j, (if p then Decoded.instr i else d) = .instr j) ↔ p ∨ ∃ j, d = .instr j := by
  by_cases hp : p <;> simp [hp]

theorem exists_decodeZero_iff (w : Word) : (∃ i, decodeZero w = .instr i) ↔ w.toNat = 0x00E0 ∨ w.toNat = 0x00EE := by
  simp [decodeZero, exists_ite_instr_iff, ← BitVec.toNat_inj]

theorem exists_decodeEight_iff (w : Word) :
    (∃ i, decodeEight w = .instr i) ↔ w.toNat % 16 ∉ [0x8, 0x9, 0xA, 0xB, 0xC, 0xD, 0xF] := by
  have hlt : w.toNat % 16 < 16 := Nat.mod_lt _ (by decide)
  simp only [decodeEight, fieldN_toNat]
  generalize w.toNat % 16 = n at hlt ⊢
  interval_cases n <;> simp

theorem exists_decodeE_iff (w : Word) : (∃ i, decodeE w = .instr i) ↔ w.toNat % 256 ∈ [0x9E, 0xA1] := by
  simp only [decodeE, fieldKK_toNat]
  split <;> simp_all

theorem exists_decodeF_iff (w : Word) :
    (∃ i, decodeF w = .instr i) ↔ w.toNat % 256 ∈ [0x07, 0x0A, 0x15, 0x18, 0x1E, 0x29, 0x33, 0x55, 0x65] := by
  simp only [decodeF, fieldKK_toNat]
  split <;> simp_all

/-- Settles O3, a case per top nibble: each part of the decoder rejects the words R95 lists under its nibble. -/
theorem decodeRejectsExactlyTheIllegalWords : Obligations.DecodeRejectsExactlyTheIllegalWords := by
  intro w
  refine ⟨decode_cases w, ?_⟩
  have hlt := fieldOp_lt w
  rw [← fieldOp_eq]
  unfold decode
  generalize fieldOp w = op at hlt ⊢
  split
  case h_1 => simp [exists_decodeZero_iff, or_iff_not_imp_left]
  case h_6 | h_10 => simp [exists_ite_instr_iff, fieldN_eq_zero_iff]
  case h_9 => simp [exists_decodeEight_iff]
  case h_15 => simp [exists_decodeE_iff, or_iff_not_imp_left]
  case h_16 =>
    obtain rfl : op = 0xF := by grind
    simp [exists_decodeF_iff, or_iff_not_imp_left]
  all_goals simp

end Sys2Proof
end

section
/-! PROOFS. A CPU tick whose fetch raises no fault, and the fault of an illegal word (40_cycle.md R120, 60_exceptions.md
R300). -/

namespace Sys2Proof.Machine

/-- A fetch at an even `PC` of at most 0xFFE raises no fault: the word is decoded and executed (R120, R121). -/
theorem instructionCycle_of_fetches {s : State} (heven : s.pc.toNat % 2 = 0) (hpc : s.pc.toNat ≤ 0xFFE) :
    instructionCycle s = executeWord s.fetchWord s.advance := by
  rw [instructionCycle, if_neg (by omega), if_neg (by omega)]

/-- A CPU tick whose fetch raises no fault is the execution of the fetched word, then the sampling of `quit_in` (R311). -/
theorem step_of_tickFetches {s t : State} (hs : TickFetches s)
    (ht : executeWord s.fetchWord s.beginCycle.advance = .next t) : step s = .next t.sampleQuit := by
  obtain ⟨hr, htick, heven, hpc⟩ := hs
  have hcycle : instructionCycle s.beginCycle = .next t :=
    (instructionCycle_of_fetches (s := s.beginCycle) heven hpc).trans ht
  rw [step_of_tick hr htick, cpuTick, hcycle]

/-- A word that decodes to no instruction raises UNKNOWN_OPCODE (R94, R120). -/
theorem executeWord_of_illegal {w : Word} (h : ¬ ∃ i, decode w = .instr i) (s : State) :
    executeWord w s = .next (s.raise .unknownOpcode w) := by
  rw [executeWord, (decode_cases w).resolve_right h]

/-- Settles O38: the fetched word raises the fault, `PC` goes back to its address, and `quit_in` is not sampled. -/
theorem unknownOpcodeHalts : Obligations.UnknownOpcodeHalts := by
  rintro s w hs rfl hw
  have haddr : s.beginCycle.advance.pc - 2 = s.pc := BitVec.add_sub_cancel s.pc 2
  rw [step_of_tickFetches hs (executeWord_of_illegal hw _), State.sampleQuit_of_halted rfl, State.raise_eq, haddr]
  rfl

end Sys2Proof.Machine
end

section
/-! PROOFS. A CPU tick that runs an instruction, and one whose fetch faults (40_cycle.md R120, R121; 60_exceptions.md R303,
R311). -/

namespace Sys2Proof.Machine

/-- A word that decodes to an instruction runs it, and then `PresentLogic` when it raised no fault (R120). -/
theorem executeWord_of_instr {w : Word} {i : Instr} {s t : State} (hw : decode w = .instr i) (ht : exec i s = .next t) :
    executeWord w s = .next (t.afterExecute i) := by
  simp only [executeWord, hw, ht]

/-- Settles O36: the state the instruction runs on is the one the fetch leaves, and a tick samples `quit_in` last. -/
theorem stepRunsTheDecodedInstruction : Obligations.StepRunsTheDecodedInstruction := by
  intro s t i hs hw ht
  exact step_of_tickFetches hs (executeWord_of_instr hw ht)

/-- A fetch from an odd `PC` faults PC_MISALIGNED (R121). -/
theorem instructionCycle_of_odd {s : State} (hodd : s.pc.toNat % 2 = 1) :
    instructionCycle s = .next (s.haltFetch .pcMisaligned) := if_pos hodd

/-- A fetch from an even `PC` above 0xFFE faults PC_OOB (R121). -/
theorem instructionCycle_of_outOfBounds {s : State} (heven : s.pc.toNat % 2 = 0) (hoob : 0xFFE < s.pc.toNat) :
    instructionCycle s = .next (s.haltFetch .pcOob) := by
  rw [instructionCycle, if_neg (by omega), if_pos hoob]

/-- A CPU tick whose instruction cycle leaves the core HALTED ends there: `quit_in` is not sampled (R303, R311). -/
theorem step_of_tickHalts {s t : State} (hr : s.runState = .running) (htick : s.cpuCnt + 1 = s.cfg.cpuDiv)
    (hcycle : instructionCycle s.beginCycle = .next t) (ht : t.runState = .halted) : step s = .next t := by
  rw [step_of_tick hr htick, cpuTick, hcycle]
  exact congrArg Host.Outcome.next (State.sampleQuit_of_halted ht)

/-- Settles O37: the start of the master cycle leaves `PC` alone, so the fetch checks see it, and a fault of the fetch keeps
it and latches no word. -/
theorem fetchFaultsOnABadPc : Obligations.FetchFaultsOnABadPc := by
  intro s hr htick
  constructor
  · intro hodd
    exact step_of_tickHalts hr htick (instructionCycle_of_odd (s := s.beginCycle) hodd) rfl
  · intro heven hoob
    exact step_of_tickHalts hr htick (instructionCycle_of_outOfBounds (s := s.beginCycle) heven hoob) rfl

end Sys2Proof.Machine
end

section
/-! PROOFS. How a statement names an instruction's word and a fault's state (`EncodedAs`, `faulted`), tied to `encode` and
to `exec` (30_encoding.md R92, R93; 60_exceptions.md R300, R301). -/

namespace Sys2Proof.Machine

/-- The number of an instruction's word is an encoding of it: it is the word's only number, and the word decodes to the
instruction (O1). -/
theorem encodedAs_of_toNat_encode {value : Nat} {i : Instr} (h : (encode i).toNat = value) : EncodedAs value i := by
  intro w hw
  obtain rfl : encode i = w := BitVec.eq_of_toNat_eq (h.trans hw.symm)
  exact decodeOfEncodeIsTheInstruction i

/-- An instruction whose fault condition holds leaves the state of R301, its own word latched. -/
theorem exec_eq_faulted {i : Instr} {s : State} {code : FaultCode} {w : Word} (h : ownFault i s = some code)
    (hw : (encode i).toNat = w.toNat) : exec i s = .next (faulted s code w) := by
  obtain rfl : encode i = w := BitVec.eq_of_toNat_eq hw
  exact exec_of_ownFault_eq_some h

end Sys2Proof.Machine
end

section
/-! PROOFS. Control transfer (41_control.md R140 to R149): the call stack, the jumps and the skips. -/

namespace Sys2Proof.Machine

/-! The call stack. -/

/-- RET takes the last of the entries in use into `PC` (R141, R142). -/
theorem effect_ret_pc {s : State} {k : Fin 16} (h : s.sp.val = k.val + 1) : (effect .ret s).pc = s.stack[k] := by
  simp [effect, h]

/-- RET frees one entry (R141). -/
theorem effect_ret_sp {s : State} {n : Nat} (h : s.sp.val = n + 1) : (effect .ret s).sp.val = n := by
  have hne : s.sp ≠ 0 := Fin.ne_of_val_ne (by rw [h]; exact n.succ_ne_zero)
  exact (Fin.val_sub_one_of_ne_zero hne).trans (by rw [h, Nat.add_sub_cancel])

/-- CALL takes one entry into use when fewer than 16 are (R140). -/
theorem effect_call_sp {s : State} (nnn : Addr12) (h : s.sp.val < 16) : (effect (.call nnn) s).sp.val = s.sp.val + 1 :=
  Fin.val_add_one_of_lt h

/-- CALL stores the advanced `PC` in the entry `SP` names and leaves the others (R140, R144). -/
theorem effect_call_stack (nnn : Addr12) (s : State) (j : Fin 16) :
    (effect (.call nnn) s).stack[j] = if s.sp.val = j.val then s.pc else s.stack[j] :=
  Vector.getElem_setIfInBounds j.isLt

/-- Settles O5: RET on a stack in use is its effect, and on an empty one it is the fault of R142. -/
theorem retPopsTheStackOrUnderflows : Obligations.RetPopsTheStackOrUnderflows := by
  refine ⟨encodedAs_of_toNat_encode rfl, fun s k hk => ?_, fun s hs => exec_eq_faulted (if_pos hs) rfl⟩
  refine ⟨effect .ret s, execRet_of_pos (by omega), ?_, effect_ret_sp hk⟩
  rw [← effect_ret_pc hk]
  rfl

/-- Settles O7: CALL with a free entry is its effect, and on a full stack it is the fault of R144. -/
theorem callPushesThePcOrOverflows : Obligations.CallPushesThePcOrOverflows := by
  intro nnn
  have hword : (encode (.call nnn)).toNat = 0x2000 + nnn.toNat := toNat_formA 0x2 nnn
  refine ⟨encodedAs_of_toNat_encode hword, fun s k hk => ?_,
    fun s w hs hw => exec_eq_faulted (if_pos hs) (hword.trans hw.symm)⟩
  have hlt : s.sp.val < 16 := by omega
  refine ⟨effect (.call nnn) s, execCall_of_lt nnn hlt, ?_, ?_, ?_, fun j hj => ?_⟩
  · rw [BitVec.ofNat_toNat]; rfl
  · rw [effect_call_sp nnn hlt, hk]
  · rw [effect_call_stack, if_pos hk]
  · rw [effect_call_stack, if_neg (by omega)]

/-- Settles O9: the entry RET takes is the one CALL pushed (O5, O7). -/
theorem callThenRetComesBack : Obligations.CallThenRetComesBack := by
  intro s nnn hsp
  obtain ⟨-, hpush, -⟩ := callPushesThePcOrOverflows nnn
  obtain ⟨-, hpop, -⟩ := retPopsTheStackOrUnderflows
  obtain ⟨t, hcall, ht, htsp, htop, hother⟩ := hpush s ⟨s.sp.val, hsp⟩ rfl
  obtain ⟨u, hret, hu, husp⟩ := hpop t ⟨s.sp.val, hsp⟩ htsp
  have hsp' : u.sp = s.sp := Fin.ext husp
  have hstack : u.stack = t.stack := by rw [hu]
  refine ⟨t, u, hcall, hret, ?_, fun j hj => ?_⟩
  · rw [hstack, hu, htop, hsp', ht]
  · rw [hstack]; exact hother j (Fin.ne_of_val_ne hj)

/-! Jumps and skips. -/

/-- Settles O6: neither jump can fault, and each effect is the jump. -/
theorem jumpsSetThePc : Obligations.JumpsSetThePc := by
  refine ⟨fun nnn => ⟨encodedAs_of_toNat_encode (toNat_formA 0x1 nnn), fun s => ?_⟩,
    fun nnn => ⟨encodedAs_of_toNat_encode (toNat_formA 0xB nnn), fun s => exec_of_ownFault_eq_none rfl⟩⟩
  rw [BitVec.ofNat_toNat]
  exact exec_of_ownFault_eq_none rfl

/-- A skip under a test of the condition `p` advances `PC` by 2 exactly when `p` holds (R127). -/
theorem State.skipIf_eq_of_iff {b : Bool} {p : Prop} [Decidable p] (h : b = true ↔ p) (s : State) :
    s.skipIf b = { s with pc := if p then s.pc + 2 else s.pc } := by
  simp only [State.skipIf, h]

/-- An instruction that cannot fault and whose effect is a skip under a test of `p` is that skip (R127, R128). -/
theorem exec_eq_skip {i : Instr} {s : State} {b : Bool} {p : Prop} [Decidable p] (hf : ownFault i s = none)
    (he : effect i s = s.skipIf b) (h : b = true ↔ p) :
    exec i s = .next { s with pc := if p then s.pc + 2 else s.pc } := by
  rw [exec_of_ownFault_eq_none hf, he, State.skipIf_eq_of_iff h]

/-- Settles O8: no skip can fault, and each effect is a skip under the test of its comparison. -/
theorem skipsCompareRegisters : Obligations.SkipsCompareRegisters := by
  refine ⟨fun x kk => ⟨?_, fun s => exec_eq_skip rfl rfl beq_iff_eq⟩,
    fun x kk => ⟨?_, fun s => exec_eq_skip rfl rfl bne_iff_ne⟩,
    fun x y => ⟨?_, fun s => exec_eq_skip rfl rfl beq_iff_eq⟩,
    fun x y => ⟨?_, fun s => exec_eq_skip rfl rfl bne_iff_ne⟩⟩
  · exact encodedAs_of_toNat_encode (toNat_formRK 0x3 x kk)
  · exact encodedAs_of_toNat_encode (toNat_formRK 0x4 x kk)
  · exact encodedAs_of_toNat_encode (toNat_formRRN 0x5 x y 0)
  · exact encodedAs_of_toNat_encode (toNat_formRRN 0x9 x y 0)

end Sys2Proof.Machine
end

section
/-! PROOFS. Register arithmetic and logic (42_alu.md R170 to R182): an instruction whose effect writes a register, and then
perhaps the flag, does just that, and the results and flags in the natural-number arithmetic of the spec. -/

namespace Sys2Proof.Machine

/-! From the effect to the words of the claims. -/

/-- The word of an instruction of the arithmetic group: top nibble 8, two registers and the subop (R92, R93). -/
theorem encodedAs_arithmetic {i : Instr} {x y : Reg} (n : BitVec 4) (h : encode i = formRRN 0x8 x y n) :
    EncodedAs (0x8000 + n.toNat + 256 * x.val + 16 * y.val) i := by
  refine encodedAs_of_toNat_encode ?_
  rw [h, toNat_formRRN]
  show 0x8000 + 256 * x.val + 16 * y.val + n.toNat = _
  omega

/-- An instruction that cannot fault and whose effect is a register write is that write and no other (R21, R128). -/
theorem writesReg_of_effect {i : Instr} {s : State} {x : Reg} {r : Byte} (hf : ownFault i s = none)
    (he : effect i s = s.setReg x r) : WritesReg i s x r :=
  ⟨s.setReg x r, he ▸ exec_of_ownFault_eq_none hf, rfl, fun j => s.reg_setReg x j r⟩

/-- After a result and a flag are written, VF holds the flag, even where it is the destination (R123). -/
theorem State.reg_setResultFlag (s : State) (x j : Reg) (r f : Byte) :
    (s.setResultFlag x r f).reg j = if j = 15 then f else if j = x then r else s.reg j := by
  rw [State.setResultFlag, State.reg_setReg, State.reg_setReg]

/-- An instruction that cannot fault and whose effect writes a result and then a flag does that alone (R123, R128). -/
theorem writesRegFlag_of_effect {i : Instr} {s : State} {x : Reg} {r f : Byte} (hf : ownFault i s = none)
    (he : effect i s = s.setResultFlag x r f) : WritesRegFlag i s x r f :=
  ⟨s.setResultFlag x r f, he ▸ exec_of_ownFault_eq_none hf, rfl, fun j => s.reg_setResultFlag x j r f⟩

/-! Results and flags as numbers (R14, R170). -/

/-- Narrowing a number to a byte takes it mod 256 (R14). -/
theorem ofNat_mod_256 (n : Nat) : (BitVec.ofNat 8 (n % 256) : Byte) = BitVec.ofNat 8 n :=
  BitVec.eq_of_toNat_eq (Nat.mod_mod n 256)

/-- The flag of a comparison, as the spec writes it (R37). -/
theorem flagByte_decide (p : Prop) [Decidable p] : flagByte (decide p) = if p then 1 else 0 := by
  simp only [flagByte, decide_eq_true_eq]

/-- An instruction that cannot fault and whose effect narrows `n` and flags `p` writes `n` mod 256 and then 1 to VF iff `p`
holds (R37, R170). -/
theorem writesRegFlag_of_narrowed {i : Instr} {s : State} {x : Reg} {n : Nat} {p : Prop} [Decidable p]
    (hf : ownFault i s = none) (he : effect i s = s.setResultFlag x (BitVec.ofNat 8 n) (flagByte (decide p))) :
    WritesRegFlag i s x (BitVec.ofNat 8 (n % 256)) (if p then 1 else 0) := by
  rw [ofNat_mod_256, ← flagByte_decide]
  exact writesRegFlag_of_effect hf he

/-- The flag of a bit is the bit's value (R37). -/
theorem flagByte_eq_ofNat (b : Bool) : flagByte b = BitVec.ofNat 8 b.toNat := by cases b <;> rfl

/-- The bit SHR shifts out is the remainder of halving (R180). -/
theorem lowBitFlag_eq (src : Byte) : lowBitFlag src = BitVec.ofNat 8 (src.toNat % 2) := by
  rw [lowBitFlag, flagByte_eq_ofNat, ← BitVec.testBit_toNat, Nat.toNat_testBit, pow_zero, Nat.div_one]

/-- The bit SHL shifts out is the carry of doubling (R181). -/
theorem highBitFlag_eq (src : Byte) : highBitFlag src = BitVec.ofNat 8 (src.toNat / 128) := by
  have hlt : src.toNat / 128 < 2 := by have := src.isLt; omega
  rw [highBitFlag, flagByte_eq_ofNat, ← BitVec.testBit_toNat, Nat.toNat_testBit]
  exact congrArg _ (Nat.mod_eq_of_lt hlt)

/-- A right shift by one bit halves (R180). -/
theorem ushiftRight_one_eq (src : Byte) : src >>> 1 = BitVec.ofNat 8 (src.toNat / 2) := by
  apply BitVec.eq_of_toNat_eq
  rw [BitVec.toNat_ushiftRight, Nat.shiftRight_eq_div_pow, BitVec.toNat_ofNat]
  have := src.isLt
  omega

/-- A left shift by one bit doubles mod 256 (R181). -/
theorem shiftLeft_one_eq (src : Byte) : src <<< 1 = BitVec.ofNat 8 (2 * src.toNat % 256) := by
  apply BitVec.eq_of_toNat_eq
  rw [BitVec.toNat_shiftLeft, Nat.shiftLeft_eq, BitVec.toNat_ofNat]
  omega

/-- The value of the operand `LEGACY_SHIFT` selects (R180, R181). -/
theorem State.toNat_shiftOperand (s : State) (x y : Reg) :
    (s.shiftOperand x y).toNat = if s.cfg.legacyShift then (s.reg y).toNat else (s.reg x).toNat :=
  apply_ite BitVec.toNat _ _ _

/-- The byte a draw takes is the next one the environment has scripted (R182; log 7). -/
theorem State.randNow_of_scripted {s : State} {b : Byte} {rest : List Byte} (h : s.inputs.rand = b :: rest) :
    s.randNow = b := by
  rw [State.randNow, h]; rfl

/-! The obligations. -/

/-- Settles O10: none of the three can fault, and each effect is the register write. -/
theorem loadsAndAddImmediateWriteVx : Obligations.LoadsAndAddImmediateWriteVx := by
  refine ⟨fun x kk => ⟨?_, fun s => writesReg_of_effect rfl rfl⟩, fun x y => ⟨?_, fun s => writesReg_of_effect rfl rfl⟩,
    fun x kk => ⟨?_, fun s => ?_⟩⟩
  · exact encodedAs_of_toNat_encode (toNat_formRK 0x6 x kk)
  · exact encodedAs_arithmetic 0x0 rfl
  · exact encodedAs_of_toNat_encode (toNat_formRK 0x7 x kk)
  · rw [ofNat_mod_256]
    exact writesReg_of_effect rfl rfl

/-- Settles O11: the byte given bit by bit is the bitwise result, and the effect clears VF after writing it. -/
theorem logicClearsVf : Obligations.LogicClearsVf := by
  intro x y
  refine ⟨⟨encodedAs_arithmetic 0x1 rfl, fun s r hr => ?_⟩, ⟨encodedAs_arithmetic 0x2 rfl, fun s r hr => ?_⟩,
    ⟨encodedAs_arithmetic 0x3 rfl, fun s r hr => ?_⟩⟩
  · obtain rfl : r = s.reg x ||| s.reg y :=
      BitVec.eq_of_getLsbD_eq fun k hk => (hr k hk).trans BitVec.getLsbD_or.symm
    exact writesRegFlag_of_effect rfl rfl
  · obtain rfl : r = s.reg x &&& s.reg y :=
      BitVec.eq_of_getLsbD_eq fun k hk => (hr k hk).trans BitVec.getLsbD_and.symm
    exact writesRegFlag_of_effect rfl rfl
  · obtain rfl : r = s.reg x ^^^ s.reg y :=
      BitVec.eq_of_getLsbD_eq fun k hk => (hr k hk).trans BitVec.getLsbD_xor.symm
    exact writesRegFlag_of_effect rfl rfl

/-- Settles O12: the effect writes the narrowed sum and then whether the exact sum is above 255. -/
theorem addRegistersSetsCarry : Obligations.AddRegistersSetsCarry :=
  fun _ _ => ⟨encodedAs_arithmetic 0x4 rfl, fun _ => writesRegFlag_of_narrowed rfl rfl⟩

/-- Settles O13: each effect writes the narrowed difference and then the strict comparison of the operands. -/
theorem subtractionsSetStrictFlag : Obligations.SubtractionsSetStrictFlag :=
  fun _ _ => ⟨⟨encodedAs_arithmetic 0x5 rfl, fun _ => writesRegFlag_of_narrowed rfl rfl⟩,
    ⟨encodedAs_arithmetic 0x7 rfl, fun _ => writesRegFlag_of_narrowed rfl rfl⟩⟩

/-- Settles O14: `src` is the value of the shift operand, and each effect writes its shift and then the bit shifted out. -/
theorem shiftsTakeTheConfiguredOperand : Obligations.ShiftsTakeTheConfiguredOperand := by
  refine fun x y => ⟨⟨encodedAs_arithmetic 0x6 rfl, fun s src hsrc => ?_⟩,
    ⟨encodedAs_arithmetic 0xE rfl, fun s src hsrc => ?_⟩⟩
  · rw [hsrc, ← State.toNat_shiftOperand, ← ushiftRight_one_eq, ← lowBitFlag_eq]
    exact writesRegFlag_of_effect rfl rfl
  · rw [hsrc, ← State.toNat_shiftOperand, ← shiftLeft_one_eq, ← highBitFlag_eq]
    exact writesRegFlag_of_effect rfl rfl

/-- Settles O15: RND cannot fault, and its effect takes the byte of the draw and writes its AND with `kk` to Vx. -/
theorem rndMasksOneDraw : Obligations.RndMasksOneDraw := by
  refine fun x kk => ⟨encodedAs_of_toNat_encode (toNat_formRK 0xC x kk), fun s => ?_⟩
  exact ⟨effect (.rnd x kk) s, s.randNow, exec_of_ownFault_eq_none rfl, rfl, fun j => s.randDrawn.reg_setReg x j _, rfl,
    fun _ _ h => State.randNow_of_scripted h⟩

end Sys2Proof.Machine
end

section
/-! PROOFS. The display (43_display.md R200 to R202, R205, R206): what the blit does in terms of the pixels before and
after it, and what CLS and DRW do to the display and to `VF`. -/

namespace Sys2Proof.Machine

/-! The sprite blit. -/

/-- A sprite of the 15 rows a nibble can ask for is within the 32 rows of the display (R200). -/
theorem length_readSprite_le (m : Memory) (a : Nat) (n : BitVec 4) : (m.readBytes a n.toNat).length ≤ 32 := by
  have := n.isLt
  rw [Memory.length_readBytes]; omega

/-- The blit collides iff a pixel is on before it and off after it: only a target pixel changes, and one that was on goes
off exactly under a sprite bit of 1 (R201). -/
theorem spriteBlit_collides_iff {fb : Framebuffer} {cx cy : Nat} {bytes : List Byte} (hlen : bytes.length ≤ 32) :
    (spriteBlit fb cx cy bytes).2 = true ↔
      ∃ c r, fb.pixel c r = true ∧ (spriteBlit fb cx cy bytes).1.pixel c r = false := by
  obtain ⟨htarget, hother, hcollides⟩ := spriteBlit_spec fb cx cy bytes hlen
  rw [hcollides]
  constructor
  · rintro ⟨i, hi, j, hj, hon, hbit⟩
    exact ⟨_, _, hon, by rw [htarget i hi j hj, hon, hbit]; rfl⟩
  · rintro ⟨c, r, hon, hoff⟩
    by_contra hnone
    have hsame : (spriteBlit fb cx cy bytes).1.pixel c r = fb.pixel c r := by
      refine hother c r fun i hi j hj ⟨hc, hr⟩ => hnone ⟨i, hi, j, hj, ?_⟩
      subst hc hr
      rw [htarget i hi j hj, hon, Bool.true_xor, Bool.not_eq_false'] at hoff
      exact ⟨hon, hoff⟩
    exact absurd (hon.symm.trans (hsame.symm.trans hoff)) (by decide)

/-- Two blits of one sprite at one place cancel: a target pixel is XORed with its sprite bit twice (R200). -/
theorem spriteBlit_spriteBlit (fb : Framebuffer) (cx cy : Nat) {bytes : List Byte} (hlen : bytes.length ≤ 32) :
    (spriteBlit (spriteBlit fb cx cy bytes).1 cx cy bytes).1 = fb := by
  obtain ⟨htarget, hother, -⟩ := spriteBlit_spec fb cx cy bytes hlen
  obtain ⟨htarget', hother', -⟩ := spriteBlit_spec (spriteBlit fb cx cy bytes).1 cx cy bytes hlen
  refine Framebuffer.ext_pixel fun c r => ?_
  by_cases h : ∀ i < bytes.length, ∀ j < 8, ¬ (c = wrapColumn (cx + j) ∧ r = wrapRow (cy + i))
  · rw [hother' c r h, hother c r h]
  · push Not at h
    obtain ⟨i, hi, j, hj, rfl, rfl⟩ := h
    rw [htarget' i hi j hj, htarget i hi j hj, Bool.xor_assoc, Bool.xor_self, Bool.xor_false]

/-! DRW on the state. -/

/-- DRW with its sprite in bounds raises no fault (R206, R300). -/
theorem ownFault_drw_eq_none {s : State} {n : BitVec 4} (x y : Reg)
    (h : n.toNat = 0 ∨ s.i.toNat + n.toNat - 1 ≤ 0xFFF) : ownFault (.drw x y n) s = none := if_neg (by omega)

section
variable (x y : Reg) (n : BitVec 4) (s : State)

/-- DRW leaves the display its blit leaves (R206). -/
theorem effect_drw_fb : (effect (.drw x y n) s).fb =
    (spriteBlit s.fb (s.drawColumn x) (s.drawRow y) (s.mem.readBytes s.i.toNat n.toNat)).1 := rfl

/-- DRW writes no register but VF (R206). -/
theorem effect_drw_reg_of_ne {k : Reg} (h : k ≠ 15) : (effect (.drw x y n) s).reg k = s.reg k :=
  State.reg_setReg_of_ne _ _ h

/-- DRW writes 1 to VF iff a pixel went from on to off, and 0 otherwise (R201). -/
theorem effect_drw_flag : (effect (.drw x y n) s).reg 15 =
    if ∃ c r, s.fbRd c r = true ∧ (effect (.drw x y n) s).fbRd c r = false then 1 else 0 := by
  rw [← flagByte_decide]
  refine (State.reg_setReg_self _ _ _).trans (congrArg flagByte ?_)
  exact Bool.eq_iff_iff.mpr ((spriteBlit_collides_iff (length_readSprite_le ..)).trans decide_eq_true_iff.symm)

variable {x y n s}

/-- DRW XORs the pixel at column `j` and row `i` of the sprite with bit `7 − j` of the byte at `I + i` (R200, R206). -/
theorem effect_drw_target {i j : Nat} (hi : i < n.toNat) (hj : j < 8) {c : Fin 64} {r : Fin 32}
    (hc : c.val = ((s.reg x).toNat % 64 + j) % 64) (hr : r.val = ((s.reg y).toNat % 32 + i) % 32) :
    (effect (.drw x y n) s).fbRd c r = (s.fbRd c r ^^ (s.memByte (s.i.toNat + i)).getLsbD (7 - j)) := by
  obtain rfl : c = wrapColumn (s.drawColumn x + j) := Fin.ext hc
  obtain rfl : r = wrapRow (s.drawRow y + i) := Fin.ext hr
  obtain ⟨htarget, -, -⟩ :=
    spriteBlit_spec s.fb (s.drawColumn x) (s.drawRow y) _ (length_readSprite_le s.mem s.i.toNat n)
  have hpixel := htarget i (by rwa [Memory.length_readBytes]) j hj
  rwa [Memory.getElem_readBytes] at hpixel

/-- DRW leaves every pixel its sprite does not meet (R200). -/
theorem effect_drw_of_not_target {c : Fin 64} {r : Fin 32}
    (h : ∀ i < n.toNat, ∀ j < 8,
      ¬ (c.val = ((s.reg x).toNat % 64 + j) % 64 ∧ r.val = ((s.reg y).toNat % 32 + i) % 32)) :
    (effect (.drw x y n) s).fbRd c r = s.fbRd c r := by
  obtain ⟨-, hother, -⟩ :=
    spriteBlit_spec s.fb (s.drawColumn x) (s.drawRow y) _ (length_readSprite_le s.mem s.i.toNat n)
  refine hother c r fun i hi j hj ⟨hc, hr⟩ => ?_
  rw [Memory.length_readBytes] at hi
  exact h i hi j hj ⟨congrArg Fin.val hc, congrArg Fin.val hr⟩

/-- A second DRW of the same sprite restores the display, because the first wrote neither coordinate's register, nor `I`,
nor memory (R206). -/
theorem effect_drw_effect_drw_fb (hx : x ≠ 15) (hy : y ≠ 15) :
    (effect (.drw x y n) (effect (.drw x y n) s)).fb = s.fb := by
  have hcolumn : (effect (.drw x y n) s).drawColumn x = s.drawColumn x := by
    rw [State.drawColumn, effect_drw_reg_of_ne x y n s hx, State.drawColumn]
  have hrow : (effect (.drw x y n) s).drawRow y = s.drawRow y := by
    rw [State.drawRow, effect_drw_reg_of_ne x y n s hy, State.drawRow]
  rw [effect_drw_fb, hcolumn, hrow, effect_drw_fb]
  exact spriteBlit_spriteBlit s.fb _ _ (length_readSprite_le ..)

/-- On a blank display a sprite with a 1 bit turns the pixel under that bit on (R200). -/
theorem effect_drw_turns_on_of_blank (hblank : ∀ c r, s.fbRd c r = false)
    (hbyte : ∃ i < n.toNat, s.memByte (s.i.toNat + i) ≠ 0) :
    ∃ c r, s.fbRd c r = false ∧ (effect (.drw x y n) s).fbRd c r = true := by
  obtain ⟨i, hi, hne⟩ := hbyte
  obtain ⟨k, hk, hbit⟩ : ∃ k < 8, (s.memByte (s.i.toNat + i)).getLsbD k = true := by
    by_contra hzero
    push Not at hzero
    exact hne (BitVec.eq_of_getLsbD_eq fun k hk => by simpa using hzero k hk)
  refine ⟨wrapColumn (s.drawColumn x + (7 - k)), wrapRow (s.drawRow y + i), hblank _ _, ?_⟩
  rw [effect_drw_target hi (j := 7 - k) (by omega) rfl rfl, hblank, Bool.false_xor, Nat.sub_sub_self (by omega), hbit]

end

/-! The obligations. -/

/-- Settles O16: CLS cannot fault, and its effect is the blank display. -/
theorem clsTurnsEveryPixelOff : Obligations.ClsTurnsEveryPixelOff :=
  ⟨encodedAs_of_toNat_encode rfl, fun s => ⟨effect .cls s, exec_of_ownFault_eq_none rfl, rfl, Framebuffer.pixel_blank⟩⟩

/-- Settles O17: DRW in bounds is its effect, pixel by pixel, and out of bounds it is the fault of R206. -/
theorem drwXorsTheSprite : Obligations.DrwXorsTheSprite := by
  intro x y n
  have hword : (encode (.drw x y n)).toNat = 0xD000 + 256 * x.val + 16 * y.val + n.toNat := toNat_formRRN 0xD x y n
  refine ⟨encodedAs_of_toNat_encode hword, fun s h => ?_,
    fun s w hn hoob hw => exec_eq_faulted (if_pos ⟨hn, hoob⟩) (hword.trans hw.symm)⟩
  exact ⟨effect (.drw x y n) s, exec_of_ownFault_eq_none (ownFault_drw_eq_none x y h), rfl,
    fun _ => effect_drw_reg_of_ne x y n s, fun _ hi _ hj _ _ => effect_drw_target hi hj,
    fun _ _ => effect_drw_of_not_target⟩

/-- Settles O18: the flag is the blit's collision, and a pixel of the sprite is XORed with its bit. -/
theorem drwCollidesIffAPixelGoesOff : Obligations.DrwCollidesIffAPixelGoesOff := by
  intro s x y n h
  have hflag := effect_drw_flag x y n s
  refine ⟨effect (.drw x y n) s, exec_of_ownFault_eq_none (ownFault_drw_eq_none x y h),
    fun hoff => hflag.trans (if_pos hoff), fun hnone => hflag.trans (if_neg hnone), fun i hi j hj c r hc hr => ?_⟩
  rw [effect_drw_target hi hj hc hr]
  constructor
  · exact and_congr_right fun hon => by rw [hon, Bool.true_xor, Bool.not_eq_false']
  · intro hbit; rw [hbit, Bool.xor_false]

/-- Settles O19: the second blit cancels the first, so it turns off exactly the pixels the first turned on. -/
theorem drawingTwiceRestoresTheDisplay : Obligations.DrawingTwiceRestoresTheDisplay := by
  intro s x y n hx hy h
  have hrestored : ∀ c r, (effect (.drw x y n) (effect (.drw x y n) s)).fbRd c r = s.fbRd c r := fun c r =>
    congrArg (fun fb : Framebuffer => fb.pixel c r) (effect_drw_effect_drw_fb hx hy)
  have hflag := effect_drw_flag x y n (effect (.drw x y n) s)
  simp only [hrestored, and_comm (b := s.fbRd _ _ = false)] at hflag
  exact ⟨effect (.drw x y n) s, effect (.drw x y n) (effect (.drw x y n) s),
    exec_of_ownFault_eq_none (ownFault_drw_eq_none x y h), exec_of_ownFault_eq_none (ownFault_drw_eq_none x y h), hrestored,
    fun hon => hflag.trans (if_pos hon), fun hnone => hflag.trans (if_neg hnone),
    fun hblank hbyte => hflag.trans (if_pos (effect_drw_turns_on_of_blank hblank hbyte))⟩

end Sys2Proof.Machine
end

section
/-! PROOFS. The present request (43_display.md R203, R204). -/

namespace Sys2Proof.Machine

/-- The instructions lazy mode presents after are CLS and DRW (R203). -/
theorem drawsDisplay_iff (i : Instr) : drawsDisplay i = true ↔ i = .cls ∨ ∃ x y n, i = .drw x y n := by
  cases i with
  | cls => exact iff_of_true rfl (.inl rfl)
  | drw x y n => exact iff_of_true rfl (.inr ⟨x, y, n, rfl⟩)
  | _ => simp [drawsDisplay]

/-! `PresentLogic` in each of its three cases. -/

section
variable {s : State} (i : Instr)

/-- In lazy mode the output follows the instruction and nothing is counted (R203). -/
theorem State.presentLogic_of_lazy (h : s.cfg.lazyRender = true) :
    s.presentLogic i = { s with presentReq := drawsDisplay i } := if_pos h

/-- The REFRESH_K-th cycle since the last request raises one and restarts the count (R204). -/
theorem State.presentLogic_of_due (h : s.cfg.lazyRender = false) (hk : s.refreshCnt + 1 = s.cfg.refreshK) :
    s.presentLogic i = { s with refreshCnt := 0, presentReq := true } := by
  rw [State.presentLogic, if_neg (Bool.eq_false_iff.mp h), if_pos hk]

/-- Any other cycle of interval mode is counted and raises nothing (R204). -/
theorem State.presentLogic_of_not_due (h : s.cfg.lazyRender = false) (hk : s.refreshCnt + 1 ≠ s.cfg.refreshK) :
    s.presentLogic i = { s with refreshCnt := s.refreshCnt + 1 } := by
  rw [State.presentLogic, if_neg (Bool.eq_false_iff.mp h), if_neg hk]

end

@[simp] theorem State.sampleQuit_refreshCnt (s : State) : s.sampleQuit.refreshCnt = s.refreshCnt := by
  rw [State.sampleQuit_frame]

@[simp] theorem State.sampleQuit_presentReq (s : State) : s.sampleQuit.presentReq = s.presentReq := by
  rw [State.sampleQuit_frame]

/-- A CPU tick that completes without a fault is the instruction's effect, `PresentLogic` and the sampling of `quit_in`
(R120, R311): an instruction that faults leaves the core HALTED to the end of the tick. -/
theorem step_of_completes {s t : State} {i : Instr} (hs : TickFetches s) (hw : decode s.fetchWord = .instr i)
    (ht : step s = .next t) (hrun : t.runState ≠ .halted) :
    t = ((effect i s.beginCycle.advance).presentLogic i).sampleQuit := by
  have hr : s.runState = .running := hs.1
  obtain ⟨-, he⟩ | ⟨code, -, he⟩ := exec_cases i s.beginCycle.advance
  · cases ht.symm.trans (stepRunsTheDecodedInstruction s _ i hs hw he)
    rw [State.afterExecute, effect_runState, State.advance_runState, State.beginCycle_runState, hr]
  · cases ht.symm.trans (stepRunsTheDecodedInstruction s _ i hs hw he)
    exact absurd rfl hrun

/-- Settles O45: the effect leaves `refresh_cnt` and the lowered `present_req` to `PresentLogic`, and the sampling of
`quit_in` leaves what it wrote. -/
theorem presentRequestFollowsTheMode : Obligations.PresentRequestFollowsTheMode := by
  intro s t i hs hw ht hrun
  rw [step_of_completes hs hw ht hrun]
  have hcfg : (effect i s.beginCycle.advance).cfg = s.cfg := effect_cfg i _
  have hcnt : (effect i s.beginCycle.advance).refreshCnt = s.refreshCnt := effect_refreshCnt i _
  have hreq : (effect i s.beginCycle.advance).presentReq = false := effect_presentReq i _
  generalize effect i s.beginCycle.advance = u at hcfg hcnt hreq
  rw [← hcfg, ← hcnt, State.sampleQuit_refreshCnt, State.sampleQuit_presentReq]
  refine ⟨fun hlazy => ?_, fun hlazy hk => ?_, fun hlazy hk => ?_⟩
  · rw [State.presentLogic_of_lazy i hlazy]; exact ⟨rfl, drawsDisplay_iff i⟩
  · rw [State.presentLogic_of_due i hlazy hk]; exact ⟨rfl, rfl⟩
  · rw [State.presentLogic_of_not_due i hlazy hk]; exact ⟨rfl, hreq⟩

end Sys2Proof.Machine
end

section
/-! PROOFS. Keys and timers (44_keys_timers.md R230 to R236, 60_exceptions.md R314): what a key refresh finds, what the delay
counter reads as, and the six instructions on them. -/

namespace Sys2Proof.Machine

/-- The word of an instruction on one register with a fixed low byte: form `R` (R92). -/
theorem toNat_formR (op : BitVec 4) (x : Reg) (sub : Byte) :
    (formRK op x sub).toNat = 4096 * op.toNat + sub.toNat + 256 * x.val := by
  rw [toNat_formRK, Nat.add_right_comm]

/-! The key refresh (R230). -/

/-- The sample a key refresh takes is the next one the environment has scripted (R230; log 6). -/
theorem State.keysNow_of_scripted {s : State} {k : BitVec 16} {rest : List (BitVec 16)} (h : s.inputs.keys = k :: rest) :
    s.keysNow = k := by
  rw [State.keysNow, h]; rfl

/-- A key is in the set a refresh searches exactly when it is pressed now and was released at the last refresh (R230). -/
theorem getLsbD_and_not {now prev : BitVec 16} (k : Nat) :
    (now &&& ~~~prev).getLsbD k = true ↔ now.getLsbD k = true ∧ prev.getLsbD k = false := by
  rw [BitVec.getLsbD_and, BitVec.getLsbD_not, Bool.and_eq_true, Bool.and_eq_true, decide_eq_true_eq, Bool.not_eq_true']
  exact ⟨fun ⟨hnow, _, hprev⟩ => ⟨hnow, hprev⟩, fun ⟨hnow, hprev⟩ => ⟨hnow, BitVec.lt_of_getLsbD hnow, hprev⟩⟩

/-- A key is outside that set exactly when it was pressed at the last refresh if it is pressed now (R230). -/
theorem getLsbD_and_not_eq_false {now prev : BitVec 16} (k : Nat) :
    (now &&& ~~~prev).getLsbD k = false ↔ (now.getLsbD k = true → prev.getLsbD k = true) := by
  rw [← Bool.not_eq_true, getLsbD_and_not, not_and, Bool.not_eq_false]

/-- A refresh finds `k` exactly when `k` is newly pressed and every lower key pressed now was pressed before (R230). -/
theorem State.newKey_eq_some_iff {s : State} {k : Nat} :
    s.newKey = some k ↔ (s.keysNow.getLsbD k = true ∧ s.keyPrev.getLsbD k = false) ∧
      ∀ j < k, s.keysNow.getLsbD j = true → s.keyPrev.getLsbD j = true := by
  simp only [State.newKey, lowestKey_eq_some_iff, getLsbD_and_not, getLsbD_and_not_eq_false]

/-- A refresh finds no key when every key pressed now was pressed before (R230). -/
theorem State.newKey_eq_none {s : State}
    (h : ∀ k : Fin 16, s.keysNow.getLsbD k = true → s.keyPrev.getLsbD k = true) : s.newKey = none := by
  rw [State.newKey, lowestKey_eq_none_iff]
  refine BitVec.eq_of_getLsbD_eq fun k hk => ?_
  rw [(getLsbD_and_not_eq_false k).mpr (h ⟨k, hk⟩)]
  exact BitVec.getLsbD_zero.symm

/-- LD Vx, K that finds a key refreshes and writes it (R234). -/
theorem effect_ldVxK_of_some {s : State} {k : Nat} (x : Reg) (h : s.newKey = some k) :
    effect (.ldVxK x) s = s.keyRefresh.setReg x (BitVec.ofNat 8 k) := by
  rw [effect, h]; rfl

/-- LD Vx, K that finds no key refreshes and puts `PC` back (R234). -/
theorem effect_ldVxK_of_none {s : State} (x : Reg) (h : s.newKey = none) :
    effect (.ldVxK x) s = s.keyRefresh.jump (s.pc - 2) := by
  rw [effect, h]; rfl

/-- A skip under a failing test advances `PC` by 2 (R127, R232). -/
theorem State.skipIf_not (s : State) (b : Bool) :
    s.skipIf (!b) = { s with pc := if b then s.pc else s.pc + 2 } := by
  cases b <;> rfl

/-! The delay counter as it is read (R314). -/

/-- Under `ceil` the counter is read as it stands (R314). -/
theorem State.dtRead_of_ceil {s : State} (h : s.cfg.dtReadRounding = .ceil) : s.dtRead = s.dt := by
  rw [State.dtRead, h]

/-- Under `floor` a count already begun reads one less (R314). -/
theorem State.dtRead_of_floor {s : State} (h : s.cfg.dtReadRounding = .floor) :
    s.dtRead = if 0 < s.dt.toNat ∧ 0 < s.dtPhase then s.dt - 1 else s.dt := by
  rw [State.dtRead, h]

/-- One less of a byte above 0 does not wrap (R314). -/
theorem sub_one_eq_ofNat {b : Byte} (h : 0 < b.toNat) : b - 1 = BitVec.ofNat 8 (b.toNat - 1) := by
  bv_omega

/-! The obligations. -/

/-- Settles O20: with a key code in Vx neither skip faults, and each effect refreshes and skips under its test of the sample;
with Vx above 0xF each is the fault. -/
theorem keySkipsTestTheFreshSample : Obligations.KeySkipsTestTheFreshSample := by
  intro x
  have hskp : (encode (.skp x)).toNat = 0xE09E + 256 * x.val := toNat_formR 0xE x 0x9E
  have hsknp : (encode (.sknp x)).toNat = 0xE0A1 + 256 * x.val := toNat_formR 0xE x 0xA1
  refine ⟨encodedAs_of_toNat_encode hskp, encodedAs_of_toNat_encode hsknp, fun s hx => ?_,
    fun s w hx hw => exec_eq_faulted (if_pos hx) (hskp.trans hw.symm),
    fun s w hx hw => exec_eq_faulted (if_pos hx) (hsknp.trans hw.symm)⟩
  exact ⟨s.keysNow, fun _ _ h => State.keysNow_of_scripted h, exec_of_ownFault_eq_none (if_neg hx.not_gt),
    (exec_of_ownFault_eq_none (i := .sknp x) (if_neg hx.not_gt)).trans (congrArg _ (s.keyRefresh.skipIf_not _))⟩

/-- Settles O21: LD Vx, K cannot fault, and its effect writes the key the refresh finds or puts `PC` back. -/
theorem waitForKeyWritesTheLowestNewKey : Obligations.WaitForKeyWritesTheLowestNewKey := by
  refine fun x => ⟨encodedAs_of_toNat_encode (toNat_formR 0xF x 0x0A), fun s => ?_⟩
  refine ⟨effect (.ldVxK x) s, s.keysNow, exec_of_ownFault_eq_none rfl, fun _ _ h => State.keysNow_of_scripted h, rfl,
    fun k hnow hprev hlow => ?_, fun hold => ?_⟩
  · rw [effect_ldVxK_of_some x (State.newKey_eq_some_iff.mpr ⟨⟨hnow, hprev⟩, hlow⟩)]
    exact ⟨rfl, fun j => s.keyRefresh.reg_setReg x j _⟩
  · rw [effect_ldVxK_of_none x (State.newKey_eq_none hold)]
    exact ⟨rfl, fun _ => rfl⟩

/-- Settles O22: LD Vx, DT cannot fault, and its effect writes what the counter reads as under each rounding. -/
theorem delayReadbackRounds : Obligations.DelayReadbackRounds := by
  refine fun x => ⟨encodedAs_of_toNat_encode (toNat_formR 0xF x 0x07), fun s =>
    ⟨fun hceil => ?_, fun hfloor hbegun => ?_, fun hfloor hrest => ?_⟩⟩
  · rw [← State.dtRead_of_ceil hceil]
    exact writesReg_of_effect rfl rfl
  · rw [← sub_one_eq_ofNat hbegun.1, ← (State.dtRead_of_floor hfloor).trans (if_pos hbegun)]
    exact writesReg_of_effect rfl rfl
  · rw [← (State.dtRead_of_floor hfloor).trans (if_neg hrest)]
    exact writesReg_of_effect rfl rfl

/-- Settles O23: neither load can fault, and each effect is the load of its counter and phase. -/
theorem timerLoadsRestartThePhase : Obligations.TimerLoadsRestartThePhase :=
  fun x => ⟨encodedAs_of_toNat_encode (toNat_formR 0xF x 0x15), encodedAs_of_toNat_encode (toNat_formR 0xF x 0x18),
    fun _ => ⟨exec_of_ownFault_eq_none rfl, exec_of_ownFault_eq_none rfl⟩⟩

end Sys2Proof.Machine
end

section
/-! PROOFS. Address register and memory transfer (45_index_memory.md R260 to R265): what the stores leave outside their
bytes, what the load puts into each register, and the six instructions. -/

namespace Sys2Proof.Machine

/-- LD B, Vx leaves every byte outside its three digits (R263). -/
theorem memByte_effect_ldB_outside {s : State} {x : Reg} (hm : s.mem.wf) (hf : ownFault (.ldB x) s = none) {a : Nat}
    (ha : a < s.i.toNat ∨ s.i.toNat + 3 ≤ a) : (effect (.ldB x) s).memByte a = s.memByte a :=
  Memory.read_writeBytes_outside hm (of_ite_none_some_eq_none ((ownFault_ldB x s).symm.trans hf)) ha

/-- LD [I], Vx leaves every byte outside its block (R264). -/
theorem memByte_effect_ldMemVx_outside {s : State} {x : Reg} (hm : s.mem.wf) (hf : ownFault (.ldMemVx x) s = none)
    {a : Nat} (ha : a < s.i.toNat ∨ s.i.toNat + x.val < a) : (effect (.ldMemVx x) s).memByte a = s.memByte a := by
  have hlen := s.length_regsUpTo x
  have hspan := of_ite_none_some_eq_none ((ownFault_ldMemVx x s).symm.trans hf)
  exact Memory.read_writeBytes_outside hm hspan (by omega)

/-- LD Vx, [I] gives `V[k]` the byte at `I + k` for each `k` up to `x`, and leaves the registers above (R265). -/
theorem effect_ldVxMem_reg (x : Reg) (s : State) (k : Reg) :
    (effect (.ldVxMem x) s).reg k = if k.val ≤ x.val then s.memByte (s.i.toNat + k.val) else s.reg k := by
  have hread : (effect (.ldVxMem x) s).reg k = _ :=
    getElem_setRegsFrom (s.mem.readBytes s.i.toNat (x.val + 1)) s.v 0 k.val k.isLt
  simpa [Nat.lt_succ_iff, State.memByte, State.reg] using hread

/-! The obligations. -/

/-- Settles O25: LD B in bounds is its effect, three digits and no other byte, and out of bounds it is the fault of R263. -/
theorem bcdStoresThreeDigits : Obligations.BcdStoresThreeDigits := by
  intro x
  have hword : (encode (.ldB x)).toNat = 0xF033 + 256 * x.val := toNat_formR 0xF x 0x33
  refine ⟨encodedAs_of_toNat_encode hword, fun s hm hb => ?_,
    fun s w hoob hw => exec_eq_faulted (if_pos hoob) (hword.trans hw.symm)⟩
  have hf : ownFault (.ldB x) s = none := if_neg hb.not_gt
  have hhundreds : (s.reg x).toNat / 100 % 10 = (s.reg x).toNat / 100 := by
    have := (s.reg x).isLt
    omega
  have hunits : (s.reg x).toNat / 10 ^ 0 % 10 = (s.reg x).toNat % 10 := by rw [pow_zero, Nat.div_one]
  exact ⟨effect (.ldB x) s, exec_of_ownFault_eq_none hf, rfl, (memByte_effect_ldB hm hf 0).trans hhundreds,
    memByte_effect_ldB hm hf 1, (memByte_effect_ldB hm hf 2).trans hunits, fun _ => memByte_effect_ldB_outside hm hf⟩

/-- Settles O26: LD [I] in bounds is its effect, the block and no other byte, and out of bounds it is the fault of R264. -/
theorem storeRegistersWritesTheBlock : Obligations.StoreRegistersWritesTheBlock := by
  intro x
  have hword : (encode (.ldMemVx x)).toNat = 0xF055 + 256 * x.val := toNat_formR 0xF x 0x55
  refine ⟨encodedAs_of_toNat_encode hword, fun s hm hb => ?_,
    fun s w hoob hw => exec_eq_faulted (if_pos hoob) (hword.trans hw.symm)⟩
  have hf : ownFault (.ldMemVx x) s = none := if_neg hb.not_gt
  exact ⟨effect (.ldMemVx x) s, exec_of_ownFault_eq_none hf, rfl, fun _ => memByte_effect_ldMemVx hm hf,
    fun _ => memByte_effect_ldMemVx_outside hm hf⟩

/-- Settles O27: LD Vx, [I] in bounds is its effect, register by register, and out of bounds it is the fault of R265. -/
theorem loadRegistersReadsTheBlock : Obligations.LoadRegistersReadsTheBlock := by
  intro x
  have hword : (encode (.ldVxMem x)).toNat = 0xF065 + 256 * x.val := toNat_formR 0xF x 0x65
  refine ⟨encodedAs_of_toNat_encode hword, fun s hb => ?_,
    fun s w hoob hw => exec_eq_faulted (if_pos hoob) (hword.trans hw.symm)⟩
  exact ⟨effect (.ldVxMem x) s, exec_of_ownFault_eq_none (if_neg hb.not_gt), rfl, effect_ldVxMem_reg x s⟩

/-- Settles O28: the bytes the load reads (O27) are the ones the store wrote (O26). -/
theorem storeThenLoadRestoresRegisters : Obligations.StoreThenLoadRestoresRegisters := by
  intro s x v hm hb
  obtain ⟨-, hstore, -⟩ := storeRegistersWritesTheBlock x
  obtain ⟨-, hload, -⟩ := loadRegistersReadsTheBlock x
  obtain ⟨t, hexec, ht, hblock, -⟩ := hstore s hm hb
  obtain ⟨u, hexec', hu, hregs⟩ := hload { t with i := s.i, v := v } hb
  have hi : t.i = BitVec.ofNat 16 ((s.i.toNat + x.val + 1) % 4096) := by rw [ht]
  refine ⟨t, u, hexec, hexec', hi, ?_, fun k => (hregs k).trans (ite_congr rfl (hblock k) fun _ => rfl)⟩
  rw [hu, ← hi]

/-- Settles O24: none of the three can fault, and each effect is the masked write of `I`, for ADD I followed by its flag. -/
theorem indexInstructionsWriteI : Obligations.IndexInstructionsWriteI := by
  refine ⟨fun nnn => ⟨encodedAs_of_toNat_encode (toNat_formA 0xA nnn), fun s => ?_⟩,
    fun x => ⟨encodedAs_of_toNat_encode (toNat_formR 0xF x 0x1E), fun s => ?_⟩,
    fun x => ⟨encodedAs_of_toNat_encode (toNat_formR 0xF x 0x29), fun s => exec_of_ownFault_eq_none rfl⟩⟩
  · have hmask : nnn.toNat % 4096 = nnn.toNat := Nat.mod_eq_of_lt nnn.isLt
    rw [← hmask]
    exact exec_of_ownFault_eq_none rfl
  · refine ⟨effect (.addI x) s, exec_of_ownFault_eq_none rfl, rfl, fun j => ?_⟩
    rw [← flagByte_decide]
    exact State.reg_setReg _ flagReg j _

end Sys2Proof.Machine
end

section
/-! PROOFS. What a master cycle of a RUNNING core leaves, said once by the state (60_exceptions.md R300 to R303, R309 to
R311): it only counts, it halts in fault entry, or its instruction completes. Then the obligations on faults and on
`quit_in`. -/

namespace Sys2Proof.Machine

/-- Settles O33: `exec` is the instruction's fault under the condition of R300 and otherwise its effect, which leaves the
core RUNNING. -/
theorem instructionsFaultExactlyOnTheirCondition : Obligations.InstructionsFaultExactlyOnTheirCondition := by
  intro i s hr
  refine ⟨fun code hf => exec_eq_faulted hf rfl, fun hf => ?_⟩
  exact ⟨effect i s, exec_of_ownFault_eq_none hf, (effect_runState i s).trans hr⟩

/-! Every master cycle answers a next state. -/

/-- The decoding and execution of a word has a next state: its decoder and its instruction have one (R94, R120). -/
theorem exists_executeWord (w : Word) (s : State) : ∃ t, executeWord w s = .next t := by
  by_cases hw : ∃ i, decode w = .instr i
  · obtain ⟨i, hi⟩ := hw
    obtain ⟨-, he⟩ | ⟨code, -, he⟩ := exec_cases i s
    · exact ⟨_, executeWord_of_instr hi he⟩
    · exact ⟨_, executeWord_of_instr hi he⟩
  · exact ⟨_, executeWord_of_illegal hw s⟩

/-- An instruction cycle has a next state, whatever `PC` is (R120, R121). -/
theorem exists_instructionCycle (s : State) : ∃ t, instructionCycle s = .next t := by
  obtain hodd | heven : s.pc.toNat % 2 = 1 ∨ s.pc.toNat % 2 = 0 := by omega
  · exact ⟨_, instructionCycle_of_odd hodd⟩
  · by_cases hpc : s.pc.toNat ≤ 0xFFE
    · rw [instructionCycle_of_fetches heven hpc]
      exact exists_executeWord s.fetchWord s.advance
    · exact ⟨_, instructionCycle_of_outOfBounds heven (by omega)⟩

/-- Settles O41: a frozen and an idle master cycle have a next state, and a CPU tick has that of its instruction cycle. -/
theorem everyStepAnswersANextState : Obligations.EveryStepAnswersANextState := by
  intro s
  by_cases hr : s.runState = .running
  · by_cases htick : s.cpuCnt + 1 = s.cfg.cpuDiv
    · obtain ⟨t, ht⟩ := exists_instructionCycle s.beginCycle
      exact ⟨t.sampleQuit, by rw [step_of_tick hr htick, cpuTick, ht]⟩
    · exact ⟨_, step_of_idle hr htick⟩
  · exact ⟨_, step_of_frozen hr⟩

/-! What an instruction cycle and a master cycle leave. -/

/-- The state after fault entry at `PC`: a fault other than the fetch's latches the word fetched there (R300, R301). -/
def State.haltAtFetch (s : State) (code : FaultCode) : State :=
  s.halt code s.pc (if code = .pcMisaligned ∨ code = .pcOob then none else some s.fetchWord)

/-- A fault raised after the fetch is a fault at the fetched word's address, which it latches (R124, R301). -/
theorem State.raise_advance {s : State} {code : FaultCode}
    (hcode : code ≠ .none ∧ code ≠ .pcMisaligned ∧ code ≠ .pcOob) :
    s.advance.raise code s.fetchWord = s.haltAtFetch code := by
  obtain ⟨-, hmis, hoob⟩ := hcode
  have haddr : s.advance.pc - 2 = s.pc := BitVec.add_sub_cancel s.pc 2
  rw [State.raise_eq, haddr, State.haltAtFetch, if_neg (by simp [hmis, hoob])]
  rfl

/-- After the effect of an instruction the core is still RUNNING, so `PresentLogic` follows (R120). -/
theorem afterExecute_effect {s : State} (hr : s.runState = .running) (i : Instr) :
    (effect i s).afterExecute i = (effect i s).presentLogic i := by
  rw [State.afterExecute, effect_runState, hr]

/-- All the instruction cycle of a RUNNING core can leave: a fault at `PC`, or the effect of the fetched instruction
followed by `PresentLogic` (R120, R121, R124). -/
theorem instructionCycle_running_cases {s t : State} (hr : s.runState = .running) (h : instructionCycle s = .next t) :
    (∃ code, code ≠ .none ∧ t = s.haltAtFetch code) ∨
    ∃ i, s.pc.toNat % 2 = 0 ∧ s.pc.toNat ≤ 0xFFE ∧ decode s.fetchWord = .instr i ∧
      t = (effect i s.advance).presentLogic i := by
  obtain ⟨-, rfl⟩ | ⟨-, -, rfl⟩ | ⟨heven, hpc, hw⟩ := instructionCycle_next_cases h
  · exact .inl ⟨.pcMisaligned, by decide, rfl⟩
  · exact .inl ⟨.pcOob, by decide, rfl⟩
  · obtain rfl | ⟨i, u, hi, hu, rfl⟩ := executeWord_next_cases hw
    · exact .inl ⟨.unknownOpcode, by decide, State.raise_advance (by decide)⟩
    · obtain ⟨-, he⟩ | ⟨code, hf, he⟩ := exec_cases i s.advance
      · cases he.symm.trans hu
        exact .inr ⟨i, heven, hpc, hi, afterExecute_effect (s := s.advance) hr i⟩
      · cases he.symm.trans hu
        have hcode := ownFault_code hf
        rw [encodeOfDecodeIsTheWord _ i hi]
        exact .inl ⟨code, hcode.1, State.raise_advance hcode⟩

/-- The state a CPU tick leaves whose instruction `i` completes: its effect after the start of the master cycle and the
fetch, then `PresentLogic`, then the sampling of `quit_in` (R120, R311). -/
def State.completed (i : Instr) (s : State) : State := ((effect i s.beginCycle.advance).presentLogic i).sampleQuit

/-- All a master cycle of a RUNNING core can leave: the countdowns alone, a fault on a CPU tick, or a completed instruction
(R303, R309, R311). -/
theorem step_running_cases {s t : State} (hr : s.runState = .running) (h : step s = .next t) :
    (s.cpuCnt + 1 ≠ s.cfg.cpuDiv ∧ t = s.beginCycle) ∨
    (s.cpuCnt + 1 = s.cfg.cpuDiv ∧ ∃ code, code ≠ .none ∧ t = s.beginCycle.haltAtFetch code) ∨
    ∃ i, TickRuns s i ∧ t = s.completed i := by
  obtain ⟨hr', -⟩ | ⟨-, htick, rfl⟩ | ⟨-, htick, u, hu, rfl⟩ := step_next_cases h
  · exact absurd hr hr'
  · exact .inl ⟨htick, rfl⟩
  · obtain ⟨code, hcode, rfl⟩ | ⟨i, heven, hpc, hi, rfl⟩ := instructionCycle_running_cases (s := s.beginCycle) hr hu
    · exact .inr (.inl ⟨htick, code, hcode, State.sampleQuit_of_halted rfl⟩)
    · exact .inr (.inr ⟨i, ⟨⟨hr, htick, heven, hpc⟩, hi⟩, rfl⟩)

/-- A CPU tick that runs an instruction whose fault condition does not hold completes it (R311). -/
theorem step_of_tickRuns {s : State} {i : Instr} (hs : TickRuns s i) (hf : ownFault i s.beginCycle.advance = none) :
    step s = .next (s.completed i) := by
  obtain ⟨hfetches, hi⟩ := hs
  rw [State.completed, ← afterExecute_effect (s := s.beginCycle.advance) hfetches.1]
  exact step_of_tickFetches hfetches (executeWord_of_instr hi (exec_of_ownFault_eq_none hf))

/-- What follows the effect of a completed instruction changes `refresh_cnt`, `present_req`, `run_state` and the inputs
alone (R203, R204, R316). -/
theorem State.completed_frame (i : Instr) (s : State) :
    s.completed i = { effect i s.beginCycle.advance with
      refreshCnt := (s.completed i).refreshCnt, presentReq := (s.completed i).presentReq
      runState := (s.completed i).runState, inputs := (s.completed i).inputs } := by
  unfold State.completed
  rw [State.sampleQuit_frame, State.presentLogic_frame]

/-- After `PresentLogic` the core is still RUNNING, so the tick goes on to sample `quit_in` (R311). -/
theorem presentLogic_effect_runState {s : State} (hr : s.runState = .running) (i : Instr) :
    ((effect i s).presentLogic i).runState = .running := by
  rw [State.presentLogic_frame]
  exact (effect_runState i _).trans hr

/-- A completed instruction does not halt the core (R301, R316). -/
theorem State.completed_ne_halted {s : State} (hr : s.runState = .running) (i : Instr) :
    (s.completed i).runState ≠ .halted :=
  State.sampleQuit_ne_halted (presentLogic_effect_runState (s := s.beginCycle.advance) hr i)

/-- Settles O39: of the three cases only the fault leaves the core HALTED, and fault entry at `PC` is the equation. -/
theorem faultsArePrecise : Obligations.FaultsArePrecise := by
  intro s t hr h hhalted
  obtain ⟨-, rfl⟩ | ⟨htick, code, hcode, rfl⟩ | ⟨i, -, rfl⟩ := step_running_cases hr h
  · exact absurd (hr.symm.trans hhalted) (by decide)
  · exact ⟨htick, hcode, rfl⟩
  · exact absurd hhalted (State.completed_ne_halted hr i)

/-! `quit_in`. -/

/-- Sampling a scripted `quit_in` takes its next value, and 1 stops the core (R316; log 8). -/
theorem State.sampleQuit_of_scripted {s : State} {q : Bool} {rest : List Bool} (hr : s.runState = .running)
    (hq : s.inputs.quit = q :: rest) :
    s.sampleQuit = { s with runState := if q then .stopped else .running, inputs := { s.inputs with quit := rest } } := by
  rw [State.sampleQuit, hr, hq]; rfl

/-- Settles O42: on a CPU tick that does not halt an instruction completes, and no stage before the sampling touches
`quit_in` or the fault record. -/
theorem quitStopsAfterACompletedInstruction : Obligations.QuitStopsAfterACompletedInstruction := by
  intro s t q rest hr htick hq h hrun
  obtain ⟨hidle, -⟩ | ⟨-, code, -, rfl⟩ | ⟨i, -, rfl⟩ := step_running_cases hr h
  · exact absurd htick hidle
  · exact absurd rfl hrun
  · have hquit : ((effect i s.beginCycle.advance).presentLogic i).inputs.quit = q :: rest := by
      rw [State.presentLogic_frame]
      exact (effect_inputs_quit i _).trans hq
    have hsample := State.sampleQuit_of_scripted (presentLogic_effect_runState (s := s.beginCycle.advance) hr i) hquit
    refine ⟨congrArg State.runState hsample, congrArg (fun u : State => u.inputs.quit) hsample, ?_⟩
    rw [State.completed_frame]
    exact ⟨effect_faultCode i _, effect_faultPc i _, effect_faultWord i _⟩

/-! Frozen states. -/

/-- A run of a core that is not RUNNING stays where the first master cycle's end of the pulse leaves it (R301, R316). -/
theorem run_endPulse_of_frozen {s : State} (hr : s.runState ≠ .running) (n : Nat) :
    Host.Core.run core n s.endPulse = .next s.endPulse := by
  induction n with
  | zero => rfl
  | succ n ih => exact (run_succ_of_next (step_of_frozen (s := s.endPulse) hr) n).trans ih

/-- Settles O40: the first master cycle ends the pulse, and the rest of the run stays there. -/
theorem haltedAndStoppedAreFrozen : Obligations.HaltedAndStoppedAreFrozen := by
  intro s n hr
  refine ⟨(run_succ_of_next (step_of_frozen hr) n).trans (run_endPulse_of_frozen hr n), ?_⟩
  simp [State.soundOn, hr]

/-- Settles O46: `sound_on` is the conjunction of the two tests (R313). -/
theorem soundIsOnIffRunningAndArmed : Obligations.SoundIsOnIffRunningAndArmed := by
  intro s
  rw [State.soundOn, Bool.and_eq_true, beq_iff_eq, bne_iff_ne]

/-- Settles O48: the table of R300, row by row. -/
theorem faultCodesHaveTheirNumbers : Obligations.FaultCodesHaveTheirNumbers :=
  ⟨rfl, rfl, rfl, rfl, rfl, rfl, rfl, rfl⟩

end Sys2Proof.Machine
end

section
/-! PROOFS. The countdowns and the prescaler (60_exceptions.md R309 to R311): one countdown and many, master cycles between
CPU ticks, and every master cycle of a RUNNING core. -/

namespace Sys2Proof.Machine

/-! The countdown stage. -/

section
variable {div : Nat} {v : Byte} {phase : Nat}

/-- A counter at 0 rests (R310). -/
theorem countdown_of_zero (h : v = 0) : countdown div (v, phase) = (v, phase) := if_pos h

/-- A counter whose phase fills up loses one (R310). -/
theorem countdown_of_full (h : v ≠ 0) (hp : phase + 1 = div) : countdown div (v, phase) = (v - 1, 0) :=
  (if_neg h).trans (if_pos hp)

/-- Any other counter counts its phase (R310). -/
theorem countdown_of_not_full (h : v ≠ 0) (hp : phase + 1 ≠ div) : countdown div (v, phase) = (v, phase + 1) :=
  (if_neg h).trans (if_neg hp)

/-- The division law of R310 from any phase: `e` cycles take one for each `div` cycles of the phase, down to 0. -/
theorem toNat_countdown_iterate (hp : phase < div) (e : Nat) :
    ((countdown div)^[e] (v, phase)).1.toNat = v.toNat - (phase + e) / div := by
  induction e generalizing v phase with
  | zero => rw [Nat.add_zero, Nat.div_eq_of_lt hp]; rfl
  | succ e ih =>
    rw [Function.iterate_succ_apply]
    by_cases hv : v = 0
    · rw [countdown_of_zero hv, ih hp, hv]
      simp
    · by_cases hfull : phase + 1 = div
      · have hpred : (v - 1).toNat = v.toNat - 1 := by bv_omega
        have hdiv : (phase + (e + 1)) / div = e / div + 1 := by
          rw [← Nat.add_div_right e (Nat.zero_lt_of_lt hp)]; congr 1; omega
        rw [countdown_of_full hv hfull, ih (Nat.zero_lt_of_lt hp), hpred, hdiv, Nat.zero_add]
        omega
      · rw [countdown_of_not_full hv hfull, ih (by omega), Nat.add_right_comm, Nat.add_assoc]

end

/-- Settles O43: the law from phase 0. -/
theorem countdownFollowsTheDivisionLaw : Obligations.CountdownFollowsTheDivisionLaw := by
  intro div v e hdiv
  rw [toNat_countdown_iterate hdiv e, Nat.zero_add]

/-- Settles O55: the definition of `beginCycle` field by field, the three cases of R310, and the idle master cycle. -/
theorem masterCycleStartsWithTheCountdowns : Obligations.MasterCycleStartsWithTheCountdowns := by
  refine ⟨fun s => ?_, fun div v phase => ⟨countdown_of_zero, countdown_of_full, countdown_of_not_full⟩,
    fun s => step_of_idle⟩
  simp only [State.beginCycle, State.tickDue, beq_iff_eq]
  rfl

/-! Between CPU ticks. -/

/-- The state after `n` master cycles that reach no CPU tick (R309, R310; log 9). `run_of_idle` ties it to the run. -/
def State.idled (s : State) (n : Nat) : State :=
  { s with
    dt := ((countdown s.cfg.timerDiv)^[n] (s.dt, s.dtPhase)).1
    dtPhase := ((countdown s.cfg.timerDiv)^[n] (s.dt, s.dtPhase)).2
    st := ((countdown s.cfg.timerDiv)^[n] (s.st, s.stPhase)).1
    stPhase := ((countdown s.cfg.timerDiv)^[n] (s.st, s.stPhase)).2
    cpuCnt := s.cpuCnt + n
    presentReq := decide (n = 0) && s.presentReq }

/-- An idle master cycle before `n` others makes `n + 1` of them. -/
theorem State.idled_beginCycle {s : State} (h : s.cpuCnt + 1 ≠ s.cfg.cpuDiv) (n : Nat) :
    s.beginCycle.idled n = s.idled (n + 1) := by
  have hcnt : s.beginCycle.cpuCnt + n = s.cpuCnt + (n + 1) := by
    rw [State.beginCycle_cpuCnt, if_neg (by simpa [State.tickDue] using h)]; omega
  rw [State.idled, hcnt]
  simp [State.idled, State.beginCycle]

/-- Master cycles that reach no CPU tick only count down (R309, R311). -/
theorem run_of_idle {n : Nat} : ∀ {s : State}, s.runState = .running → s.cpuCnt + n < s.cfg.cpuDiv →
    Host.Core.run core n s = .next (s.idled n) := by
  induction n with
  | zero => intro s _ _; simp [Host.Core.run, State.idled]
  | succ n ih =>
    intro s hr hlt
    have htick : s.cpuCnt + 1 ≠ s.cfg.cpuDiv := by omega
    have hlt' : s.beginCycle.cpuCnt + n < s.beginCycle.cfg.cpuDiv := by
      rw [State.beginCycle_cpuCnt, State.beginCycle_cfg]; split <;> omega
    rw [run_succ_of_next (step_of_idle hr htick), ih (s := s.beginCycle) hr hlt', State.idled_beginCycle htick]

/-- Settles O44: the run is `idled`, whose counters follow the division law from their phases. -/
theorem idleCyclesOnlyCountDown : Obligations.IdleCyclesOnlyCountDown := by
  intro s n hs hr hlt
  refine ⟨s.idled n, run_of_idle hr hlt, rfl, toNat_countdown_iterate hs.dt_phase n,
    toNat_countdown_iterate hs.st_phase n, fun hn => ?_⟩
  show (decide (n = 0) && s.presentReq) = false
  rw [decide_eq_false hn.ne', Bool.false_and]

/-! Every master cycle. -/

/-- A completed instruction other than the load of DT leaves the delay clock one countdown on (R310, R311). -/
theorem completed_delay {i : Instr} (h : ∀ x, i ≠ .ldDtVx x) (s : State) :
    ((s.completed i).dt, (s.completed i).dtPhase) = countdown s.cfg.timerDiv (s.dt, s.dtPhase) := by
  obtain ⟨hdt, hphase⟩ := effect_delay h s.beginCycle.advance
  rw [State.completed_frame]
  exact Prod.ext hdt hphase

/-- A completed instruction other than the load of ST leaves the sound clock one countdown on (R310, R311). -/
theorem completed_sound {i : Instr} (h : ∀ x, i ≠ .ldStVx x) (s : State) :
    ((s.completed i).st, (s.completed i).stPhase) = countdown s.cfg.timerDiv (s.st, s.stPhase) := by
  obtain ⟨hst, hphase⟩ := effect_sound h s.beginCycle.advance
  rw [State.completed_frame]
  exact Prod.ext hst hphase

/-- What a fault and each instruction the cycle can run keep, a RUNNING master cycle leaves as its start did. -/
theorem step_keeps {α : Type} (f : State → α) {s t : State} (hr : s.runState = .running) (h : step s = .next t)
    (hhalt : ∀ code, f (s.beginCycle.haltAtFetch code) = f s.beginCycle)
    (hcompleted : ∀ i, TickRuns s i → f (s.completed i) = f s.beginCycle) : f t = f s.beginCycle := by
  obtain ⟨-, rfl⟩ | ⟨-, code, -, rfl⟩ | ⟨i, hi, rfl⟩ := step_running_cases hr h
  · rfl
  · exact hhalt code
  · exact hcompleted i hi

section
variable {s t : State} (hr : s.runState = .running) (h : step s = .next t)
include hr h

/-- The prescaler of a RUNNING master cycle counts up or returns to 0, whatever the cycle runs (R309). -/
theorem step_cpuCnt : t.cpuCnt = if s.cpuCnt + 1 = s.cfg.cpuDiv then 0 else s.cpuCnt + 1 := by
  have hkept : t.cpuCnt = s.beginCycle.cpuCnt := step_keeps State.cpuCnt hr h (fun _ => rfl) fun i _ => by
    rw [State.completed_frame]
    exact effect_cpuCnt i _
  rw [hkept, State.beginCycle_cpuCnt]
  simp only [State.tickDue, beq_iff_eq]

/-- A RUNNING master cycle that does not run the load of DT counts the delay clock once (R310, R311). -/
theorem step_delay (hload : ∀ x, ¬ TickRuns s (.ldDtVx x)) :
    (t.dt, t.dtPhase) = countdown s.cfg.timerDiv (s.dt, s.dtPhase) :=
  step_keeps (fun u => (u.dt, u.dtPhase)) hr h (fun _ => rfl) fun _ hi => completed_delay (fun x hx => hload x (hx ▸ hi)) s

/-- A RUNNING master cycle that does not run the load of ST counts the sound clock once (R310, R311). -/
theorem step_sound (hload : ∀ x, ¬ TickRuns s (.ldStVx x)) :
    (t.st, t.stPhase) = countdown s.cfg.timerDiv (s.st, s.stPhase) :=
  step_keeps (fun u => (u.st, u.stPhase)) hr h (fun _ => rfl) fun _ hi => completed_sound (fun x hx => hload x (hx ▸ hi)) s

end

/-- The load of DT replaces the count of its own cycle by Vx at phase 0 (R235, R311). -/
theorem step_loadDelay {s t : State} {x : Reg} (h : step s = .next t) (hs : TickRuns s (.ldDtVx x)) :
    t.dt = s.reg x ∧ t.dtPhase = 0 := by
  cases h.symm.trans (step_of_tickRuns hs rfl)
  rw [State.completed_frame]
  exact ⟨rfl, rfl⟩

/-- The load of ST replaces the count of its own cycle by Vx at phase 0 (R236, R311). -/
theorem step_loadSound {s t : State} {x : Reg} (h : step s = .next t) (hs : TickRuns s (.ldStVx x)) :
    t.st = s.reg x ∧ t.stPhase = 0 := by
  cases h.symm.trans (step_of_tickRuns hs rfl)
  rw [State.completed_frame]
  exact ⟨rfl, rfl⟩

/-- Settles O56: each clock by the cycle's instruction, and the prescaler in every case. -/
theorem everyMasterCycleCountsDown : Obligations.EveryMasterCycleCountsDown :=
  fun _ _ hr h => ⟨step_delay hr h, step_sound hr h, fun _ => step_loadDelay h, fun _ => step_loadSound h,
    step_cpuCnt hr h⟩

/-! A clock along a run. -/

/-- A clock that is loaded with `v` before state 1 of a path and takes one countdown in each master cycle from there follows
the division law (R310). -/
theorem toNat_of_countdown_path (clock : State → Byte × Nat) {path : Nat → State} {div e : Nat} {v : Byte} (hdiv : 1 ≤ div)
    (hload : clock (path 1) = (v, 0))
    (hcount : ∀ k, 1 ≤ k → k ≤ e → clock (path (k + 1)) = countdown div (clock (path k))) :
    (clock (path (e + 1))).1.toNat = v.toNat - e / div := by
  have hiterate : ∀ k ≤ e, clock (path (k + 1)) = (countdown div)^[k] (v, 0) := by
    intro k
    induction k with
    | zero => exact fun _ => hload
    | succ k ih =>
      intro hk
      rw [hcount (k + 1) (Nat.succ_pos k) hk, ih (Nat.le_of_succ_le hk), Function.iterate_succ_apply']
  rw [hiterate e le_rfl]
  exact countdownFollowsTheDivisionLaw div v e hdiv

/-- The configuration is the same all along a run (R354). -/
theorem path_cfg {path : Nat → State} {n : Nat} (h : ∀ k < n, step (path k) = .next (path (k + 1))) :
    ∀ k ≤ n, (path k).cfg = (path 0).cfg := by
  intro k
  induction k with
  | zero => exact fun _ => rfl
  | succ k ih => exact fun hk => (configurationNeverChanges _ _ (h k (by omega))).trans (ih (by omega))

/-- Settles O57: the state after the load holds Vx at phase 0, and from there each cycle is one countdown. -/
theorem timersFollowTheirLoads : Obligations.TimersFollowTheirLoads := by
  intro path x e hdiv hpath
  have hrun : ∀ k ≤ e, (path k).runState = .running := fun k hk => (hpath k hk).1
  have hstep : ∀ k ≤ e, step (path k) = .next (path (k + 1)) := fun k hk => (hpath k hk).2
  have hcfg : ∀ k ≤ e, (path k).cfg = (path 0).cfg := path_cfg fun k hk => hstep k hk.le
  have hfirst : step (path 0) = .next (path 1) := hstep 0 (Nat.zero_le e)
  refine ⟨fun hload hnone => ?_, fun hload hnone => ?_⟩
  · obtain ⟨hdt, hphase⟩ := step_loadDelay hfirst hload
    refine toNat_of_countdown_path (fun s => (s.dt, s.dtPhase)) hdiv (Prod.ext hdt hphase) fun k h1 hk => ?_
    rw [← hcfg k hk]
    exact step_delay (hrun k hk) (hstep k hk) (hnone k h1 hk)
  · obtain ⟨hst, hphase⟩ := step_loadSound hfirst hload
    refine toNat_of_countdown_path (fun s => (s.st, s.stPhase)) hdiv (Prod.ext hst hphase) fun k h1 hk => ?_
    rw [← hcfg k hk]
    exact step_sound (hrun k hk) (hstep k hk) (hnone k h1 hk)

end Sys2Proof.Machine
end

section
/-! PROOFS. When initialization fails (70_reset_and_hazards.md R351). -/

namespace Sys2Proof.Machine

/-- Initialization fails exactly when the configuration and the ROM are not well formed (R351). -/
theorem State.initialize_eq_none_iff {cfg : Configuration} {rom : List Byte} :
    State.initialize cfg rom = none ↔ ¬ cfg.wellFormed rom.length = true := by
  simp [State.initialize]

/-- Two address ranges of which the second is not empty share an address exactly when the first is not empty and neither
ends before the other begins: the later of the two starts lies in both. -/
theorem exists_shared_address_iff {a m b n : Nat} (hn : 0 < n) :
    (∃ x, (a ≤ x ∧ x < a + m) ∧ (b ≤ x ∧ x < b + n)) ↔ ¬ (m = 0 ∨ a + m ≤ b ∨ b + n ≤ a) := by
  constructor
  · rintro ⟨x, hfirst, hsecond⟩
    omega
  · intro h
    exact ⟨max a b, by omega, by omega⟩

/-- Settles O49: the negation of the checks in arithmetic, where ranges that are not clear of each other share an address. -/
theorem initializationFailsExactlyOnR351 : Obligations.InitializationFailsExactlyOnR351 := by
  intro cfg rom
  rw [State.initialize_eq_none_iff, wellFormed_iff, exists_shared_address_iff (by decide)]
  simp only [not_and_or, Nat.not_le, gt_iff_lt]

end Sys2Proof.Machine
end
